-- ==== Sys2Proof/Word.lean ====
section
/-! DEFINITION. The bit widths of the spec (00_scope.md R8): byte, u16 and u32. -/

namespace Sys2Proof

/-- An 8-bit unsigned value, the spec's `byte`. -/
abbrev Byte := BitVec 8

/-- A 16-bit unsigned value, the spec's `u16`: a pixel (R7) or a coordinate (R26). -/
abbrev Half := BitVec 16

/-- A 32-bit unsigned value, the spec's `u32`: the word of one `RM.DAT32`. -/
abbrev Word := BitVec 32

end Sys2Proof
end

