-- ==== Sys2Proof/Config.lean ====
section
/-! DEFINITION. The implementation parameters of 00_scope.md R6, their constraints, the example
configurations of 95_test_vectors.md, and the model's one free value. -/

namespace Sys2Proof

/-- Which transport the device is bound to (R6 `VARIANT`). -/
inductive Variant where
  /-- Register-mapped (40_register_mapped_transport.md). -/
  | rm
  /-- Serial with a mode-select line (41_serial_transport.md). -/
  | ser
deriving DecidableEq, Repr

/-- One slot of `INIT_TABLE` (R219): a command byte and its parameter bytes. -/
structure InitEntry where
  cmd : Byte
  params : List Byte
deriving DecidableEq, Repr

/-- The parameters of R6. Every OPEN one is an argument of the model: no claim may assume more of it
than `Config.wf` says. -/
structure Config where
  variant : Variant
  /-- `PANEL_W`, `PANEL_H` in pixels; 16 bits because a clip coordinate must hold them (R26). -/
  panelW : Half
  panelH : Half
  /-- `C`: capacity of the TransferBuffer in 16-bit words. -/
  capC : Nat
  /-- `PARAM_MAX`: capacity of the formatter's parameter array. -/
  paramMax : Nat
  /-- `BASE` and the offsets of `CTRL`, `CMD`, `DATA` (R38). -/
  base : Nat
  offCtrl : Nat
  offCmd : Nat
  offData : Nat
  /-- `SELECT_BIT`: position of the select bit in `CTRL`. -/
  selectBit : Nat
  /-- The constant written to the other bits of `CTRL` (R38, D36). -/
  ctrlOther : Nat
  /-- `DC_LINE`, `RST_LINE`: handles of the mode-select and reset lines. -/
  dcLine : Nat
  rstLine : Nat
  cmdColAddr : Byte
  cmdRowAddr : Byte
  cmdBulkWrite : Byte
  cmdSoftReset : Byte
  cmdSleepExit : Byte
  cmdDisplayOn : Byte
  /-- `INIT_TABLE[1..14]`, slot 1 first (R214, R219). -/
  initTable : List InitEntry
  /-- `HOST_LE`: the host's byte order is little-endian (R70). -/
  hostLE : Bool
  /-- `ADDR_W`: width of a host memory address in bits. -/
  addrW : Nat
deriving DecidableEq, Repr

namespace Config

/-- Bytes of an address in a descriptor, `ADDR_W/8` (R92); the integer quotient where `ADDR_W` is no multiple
of 8 (DESIGN CHOICE, log entry 28). -/
def addrBytes (cfg : Config) : Nat := cfg.addrW / 8

/-- The slots of the initializer table as R184 and R219 constrain them: fourteen, each parameter list
within `PARAM_MAX`, none under the bulk-write command. -/
def tableWf (cfg : Config) : Bool :=
  decide (cfg.initTable.length = 14) &&
    cfg.initTable.all fun e => decide (e.params.length ≤ cfg.paramMax) && decide (e.cmd ≠ cfg.cmdBulkWrite)

/-- The constraints of R6, R184 and R219 on a configuration, and no others: `C ≥ 1` on the transport that has
a TransferBuffer, room for the four addressing bytes, three different command bytes, the table. -/
def wf (cfg : Config) : Bool :=
  (decide (cfg.variant = .rm) || decide (1 ≤ cfg.capC)) &&
    decide (4 ≤ cfg.paramMax) && decide (cfg.cmdColAddr ≠ cfg.cmdRowAddr) &&
    decide (cfg.cmdColAddr ≠ cfg.cmdBulkWrite) && decide (cfg.cmdRowAddr ≠ cfg.cmdBulkWrite) && cfg.tableWf

/-- DESIGN CHOICE (log entry 3). The register-mapped example configuration: geometry 320x480, `PARAM_MAX`
16, `C` 2048, `HOST_LE` true and `ADDR_W` 32 as the defaults of D10, D4, D9, D5 and D1, the example command
bytes and initializer table of 95_test_vectors.md (conventions and L3). For the rest the spec gives no
default and the model chose: `BASE` 0, `OFF_CTRL` 0, `OFF_CMD` 4, `OFF_DATA` 8, `SELECT_BIT` 0, the other
bits of `CTRL` 0, `DC_LINE` 0, `RST_LINE` 1. Unsafe as a fact about any device: no statement may rest on
these values. -/
def exampleRm : Config where
  variant := .rm
  panelW := 320
  panelH := 480
  capC := 2048
  paramMax := 16
  base := 0
  offCtrl := 0
  offCmd := 4
  offData := 8
  selectBit := 0
  ctrlOther := 0
  dcLine := 0
  rstLine := 1
  cmdColAddr := 0x2A
  cmdRowAddr := 0x2B
  cmdBulkWrite := 0x2C
  cmdSoftReset := 0xA0
  cmdSleepExit := 0xAF
  cmdDisplayOn := 0xB0
  initTable :=
    [⟨0xA1, [1]⟩, ⟨0xA2, [2]⟩, ⟨0xA3, [3]⟩, ⟨0xA4, [4]⟩, ⟨0xA5, [5]⟩, ⟨0xA6, [6]⟩, ⟨0xA7, [7]⟩,
     ⟨0xA8, [8]⟩, ⟨0xA9, [9]⟩, ⟨0xAA, [10]⟩, ⟨0xAB, [11]⟩, ⟨0xAC, [12]⟩, ⟨0xAD, [13]⟩, ⟨0xAE, [14]⟩]
  hostLE := true
  addrW := 32

/-- DESIGN CHOICE (log entry 3). The serial example configuration of program P2: 320x240, `C` = 4. -/
def exampleSer : Config := { exampleRm with variant := .ser, panelH := 240, capC := 4 }

/-- A FREE VALUE (log entry 6): word `i` of the `n`-th TransferBuffer allocated. R287: "`C` words of
unspecified contents". It has no body, so no proof can use what it is. -/
opaque freeTbufWord : Nat → Nat → Half

end Config

end Sys2Proof
end

