-- ==== Sys2Proof/Syntax.lean ====
section
/-! DEFINITION. The six host operations of 30_encoding.md R94, one constructor per row of
spec/opcode_table.json. -/

namespace Sys2Proof

/-- A host operation with its operands in the order of R92. -/
inductive Instr where
  /-- PROBE, OP 0x01, format Z (R285). -/
  | probe
  /-- REMOVE, OP 0x02, format Z (R290). -/
  | remove
  /-- CMD, OP 0x03, format C: the command byte and the parameter bytes in sending order (R180). -/
  | cmd (c : Byte) (p : List Byte)
  /-- SYNC, OP 0x04, format S: the byte address of the source buffer (R240). -/
  | sync (fb : Nat)
  /-- SYNCR, OP 0x05, format R (R241). -/
  | syncr (fb : Nat) (x1 x2 y1 y2 : Half)
  /-- FILL, OP 0x06, format F (R270). -/
  | fill (color : Half) (x1 x2 y1 y2 : Half)
deriving DecidableEq, Repr

end Sys2Proof
end

