-- ==== Sys2Proof/WellFormed.lean ====
section
/-! DEFINITION. Which instructions a descriptor can carry (30_encoding.md R92, R97). A clip rectangle that
breaks its invariant is well formed here: R97 says it is not detected at decode. -/

namespace Sys2Proof

/-- The parameters fit the array (R97) and their count fits the one byte `n` (R92). -/
def paramsWf (cfg : Config) (p : List Byte) : Bool :=
  decide (p.length ≤ cfg.paramMax) && decide (p.length < 256)

/-- The address fits the bytes a descriptor gives it (R92), and so `ADDR_W` bits (R27); the two are the same
where `ADDR_W` is a multiple of 8. -/
def addrWf (cfg : Config) (fb : Nat) : Bool := decide (fb < 256 ^ cfg.addrBytes)

/-- The instruction has a descriptor under the configuration. -/
def Instr.wf (cfg : Config) : Instr → Bool
  | .probe => true
  | .remove => true
  | .cmd _ p => paramsWf cfg p
  | .sync fb => addrWf cfg fb
  | .syncr fb _ _ _ _ => addrWf cfg fb
  | .fill _ _ _ _ _ => true

end Sys2Proof
end

