-- ==== Sys2Proof/Decode.lean ====
section
/-! DEFINITION. Request descriptors (30_encoding.md Part A): byte order helpers, the decoder (total, it
rejects by name), the encoder, and the reading of an opcode-table word. -/

namespace Sys2Proof

/-! ### Byte order (00_scope.md R8) -/

/-- `hi(v) = v[15:8]`. -/
def hi (v : Half) : Byte := v.extractLsb' 8 8

/-- `lo(v) = v[7:0]`. -/
def lo (v : Half) : Byte := v.extractLsb' 0 8

/-- Big-endian 16-bit field: the byte at the lower position is the more significant (R93). -/
def halfBE (h l : Byte) : Half := h ++ l

/-- Big-endian unsigned field of any length (R93). -/
def beNat (bs : List Byte) : Nat := bs.foldl (fun acc b => acc * 256 + b.toNat) 0

/-- The low `n` bytes of `v`, most significant first. -/
def beBytes : Nat → Nat → List Byte
  | 0, _ => []
  | n + 1, v => BitVec.ofNat 8 (v / 256 ^ n) :: beBytes n v

/-- The two bytes of a 16-bit field, `hi` first. -/
def halfBytes (v : Half) : List Byte := [hi v, lo v]

/-! ### Operation codes (R94) -/

def opProbe : Byte := 0x01
def opRemove : Byte := 0x02
def opCmd : Byte := 0x03
def opSync : Byte := 0x04
def opSyncr : Byte := 0x05
def opFill : Byte := 0x06

/-! ### The decoder -/

/-- Why a descriptor has no operation; each is `BadRequest` to the host (R95, R97). -/
inductive DecodeError where
  /-- No byte at all: shorter than any format (R97). -/
  | empty
  /-- `OP` is 0x00 or 0x07 .. 0xFF (R95). -/
  | reservedOp (op : Byte)
  /-- Shorter or longer than R96 gives. -/
  | badLength
  /-- A CMD with `n > PARAM_MAX` (R97). -/
  | tooManyParams
deriving DecidableEq, Repr

/-- What decoding a descriptor gives. -/
inductive Decoded where
  | ok (i : Instr)
  | error (e : DecodeError)
deriving DecidableEq, Repr

/-- Format Z: nothing after `OP`. -/
def decodeZ (i : Instr) : List Byte → Decoded
  | [] => .ok i
  | _ :: _ => .error .badLength

/-- Format C: `cmd`, `n`, then exactly `n` parameter bytes, `n ≤ PARAM_MAX`. -/
def decodeC (cfg : Config) : List Byte → Decoded
  | c :: n :: p =>
    if p.length ≠ n.toNat then .error .badLength
    else if cfg.paramMax < n.toNat then .error .tooManyParams
    else .ok (.cmd c p)
  | _ => .error .badLength

/-- Format S: `ADDR_W/8` address bytes. -/
def decodeS (cfg : Config) (bs : List Byte) : Decoded :=
  if bs.length = cfg.addrBytes then .ok (.sync (beNat bs)) else .error .badLength

/-- Format R: `ADDR_W/8` address bytes, then the four coordinates. -/
def decodeR (cfg : Config) (bs : List Byte) : Decoded :=
  if bs.length = cfg.addrBytes + 8 then
    match bs.drop cfg.addrBytes with
    | [a, b, c, d, e, f, g, h] =>
      .ok (.syncr (beNat (bs.take cfg.addrBytes)) (halfBE a b) (halfBE c d) (halfBE e f) (halfBE g h))
    | _ => .error .badLength
  else .error .badLength

/-- Format F: the colour, then the four coordinates. -/
def decodeF : List Byte → Decoded
  | [k, l, a, b, c, d, e, f, g, h] =>
    .ok (.fill (halfBE k l) (halfBE a b) (halfBE c d) (halfBE e f) (halfBE g h))
  | _ => .error .badLength

/-- The operation a descriptor asks for (R92 to R97). -/
def decode (cfg : Config) : List Byte → Decoded
  | [] => .error .empty
  | op :: bs =>
    if op = opProbe then decodeZ .probe bs
    else if op = opRemove then decodeZ .remove bs
    else if op = opCmd then decodeC cfg bs
    else if op = opSync then decodeS cfg bs
    else if op = opSyncr then decodeR cfg bs
    else if op = opFill then decodeF bs
    else .error (.reservedOp op)

/-! ### The encoder -/

/-- The descriptor of an instruction (R92, R93). -/
def encode (cfg : Config) : Instr → List Byte
  | .probe => [opProbe]
  | .remove => [opRemove]
  | .cmd c p => opCmd :: c :: BitVec.ofNat 8 p.length :: p
  | .sync fb => opSync :: beBytes cfg.addrBytes fb
  | .syncr fb x1 x2 y1 y2 =>
    opSyncr :: (beBytes cfg.addrBytes fb ++ (halfBytes x1 ++ halfBytes x2 ++ halfBytes y1 ++ halfBytes y2))
  | .fill color x1 x2 y1 y2 =>
    opFill :: (halfBytes color ++ halfBytes x1 ++ halfBytes x2 ++ halfBytes y1 ++ halfBytes y2)

/-! ### Length (R96) and opcode-table words -/

/-- The length R96 gives a descriptor from `OP` and, for CMD, byte 2; none for a reserved `OP` or a CMD
cut before its count. -/
def descLength (cfg : Config) : List Byte → Option Nat
  | [] => none
  | op :: bs =>
    if op = opProbe ∨ op = opRemove then some 1
    else if op = opCmd then (bs[1]?).map fun n => 3 + n.toNat
    else if op = opSync then some (1 + cfg.addrBytes)
    else if op = opSyncr then some (9 + cfg.addrBytes)
    else if op = opFill then some 11
    else none

/-- The `n` low bytes of `w`, least significant first: how spec/opcode_table.json numbers the bits. -/
def leBytes : Nat → Nat → List Byte
  | 0, _ => []
  | n + 1, w => BitVec.ofNat 8 w :: leBytes n (w / 256)

/-- A word of the opcode table as the descriptor a host presents: its bytes, first byte lowest, followed
by operand bytes of zero up to the length of R96. -/
def tableBytes (cfg : Config) (nbits w : Nat) : List Byte :=
  let head := leBytes (nbits / 8) w
  match descLength cfg (head ++ [0, 0, 0]) with
  | some n => head ++ List.replicate (n - head.length) 0
  | none => head

/-- What this model's decoder reads from an opcode-table word, under the configuration of
`State.reset` (log entry 20). -/
def decodeTableWord (nbits w : Nat) : Option Instr :=
  match decode Config.exampleRm (tableBytes Config.exampleRm nbits w) with
  | .ok i => some i
  | .error _ => none

end Sys2Proof
end

