-- ==== Sys2Proof/Machine/State.lean ====
section
/-! DEFINITION. The state of the block (10_state.md), the event alphabet (20_memory.md R66), the status
codes (60_exceptions.md R300), the reasons a step can stop, and the state after reset (R41). -/

namespace Sys2Proof.Machine

open Sys2Proof

/-! ### Values of the named registers -/

/-- `INIT_STATE` (R22), in the document's order. -/
inductive InitState where
  | unreset
  | hardReset
  | softReset
  | configuringDisplay
  | sleepExit
  | displayOn
deriving DecidableEq, Repr

/-- The level an `SER.DC(m)` event drives (R66). The physical level is open (D26). -/
inductive DcLevel where
  | command
  | data
deriving DecidableEq, Repr

/-- `MODE` (R30). -/
inductive ModeLine where
  | unknown
  | driven (m : DcLevel)
deriving DecidableEq, Repr

/-- `SELECT` (R31): `written true` is 1, asserted. -/
inductive SelectBit where
  | unknown
  | written (v : Bool)
deriving DecidableEq, Repr

/-- The level an `RST(v)` event drives (R66). -/
inductive RstLevel where
  | asserted
  | released
deriving DecidableEq, Repr

/-- `RST` (R32). -/
inductive RstLine where
  | unknown
  | driven (v : RstLevel)
deriving DecidableEq, Repr

/-- The status codes of R300. -/
inductive Status where
  | ok
  | resourceUnavailable
  | allocationFailure
  | busError
  | unsupported
  | notReady
  | badRequest
deriving DecidableEq, Repr

/-! ### Events and the trace -/

/-- The closed event alphabet of R66. -/
inductive Event where
  /-- `RM.SEL(v)`: one write of the control register. -/
  | rmSel (v : Bool)
  /-- `RM.CMD8(b)`. -/
  | rmCmd8 (b : Byte)
  /-- `RM.DAT8(b)`. -/
  | rmDat8 (b : Byte)
  /-- `RM.DAT32(w)`. -/
  | rmDat32 (w : Word)
  /-- `SER.CLAIM`. -/
  | serClaim
  /-- `SER.RELEASE`. -/
  | serRelease
  /-- `SER.DC(m)`. -/
  | serDc (m : DcLevel)
  /-- `SER.XFER(B)`: one framed transaction. -/
  | serXfer (bs : List Byte)
  /-- `RST(v)`. -/
  | rst (v : RstLevel)
  /-- `DELAY(t)`, in milliseconds. -/
  | delay (t : Nat)
  /-- `BL(on)`. -/
  | blOn
  /-- `RES.GET`. -/
  | resGet
  /-- `RES.ALLOC`. -/
  | resAlloc
  /-- `RES.FREE`. -/
  | resFree
  /-- `RES.PUT`. -/
  | resPut
deriving DecidableEq, Repr

/-- One entry of `OUT` (R36): an event, and whether it completed (`true`) or failed (`false`). -/
structure Entry where
  ev : Event
  ok : Bool
deriving DecidableEq, Repr

/-- An answer of the environment to a fallible event (R67). `unsupported` is the second failure of
`RES.GET` (R286); any other event takes it as a plain failure (log entry 13). -/
inductive Answer where
  | ok
  | fail
  | unsupported
deriving DecidableEq, Repr

/-! ### Sequencer and latches -/

/-- The operation in flight (R23). REMOVE carries the two validity bits it found at acceptance, which
fix its expansion (log entry 12). -/
inductive Op where
  | probe
  | remove (free put : Bool)
  | cmd
  | sync
  | syncr
  | fill
deriving DecidableEq, Repr

/-- `SEQ` (R23): idle, or the operation in flight and the index of its next event. -/
inductive SeqPos where
  | idle
  | busy (op : Op) (k : Nat)
deriving DecidableEq, Repr

/-- The CommandFrame latch `FRAME` (R25). -/
structure Frame where
  cmd : Byte
  plen : Nat
  param : List Byte
deriving DecidableEq, Repr

/-- The ClipRect latch `CLIP` (R26): columns `x1 .. x2-1`, rows `y1 .. y2-1`. -/
structure Clip where
  x1 : Half
  x2 : Half
  y1 : Half
  y2 : Half
deriving DecidableEq, Repr

/-- Host memory: readable bytes by address, in the canonical form of `Memory.wf`. An unlisted address
has no value: reading it is refused (log entry 8). -/
abbrev Memory := List Host.Cell

/-! ### The state -/

/-- The state of R20, with the parameters of the step relation (configuration, host memory, requests,
answers) as plain data beside it. -/
structure State where
  /-- The configuration of R6; no step changes it. -/
  cfg : Config
  /-- `DEV_VALID` (R21). -/
  devValid : Bool
  /-- `INIT_STATE` (R22). -/
  initState : InitState
  /-- `TBUF_VALID` (R28). -/
  tbufValid : Bool
  /-- `TBUF[0 .. C-1]` (R28), empty while no buffer is allocated (log entry 7). -/
  tbuf : List Half
  /-- `BUS_HELD` (R29). -/
  busHeld : Bool
  /-- `MODE` (R30). -/
  mode : ModeLine
  /-- `SELECT` (R31). -/
  select : SelectBit
  /-- `RST` (R32). -/
  rst : RstLine
  /-- `BL_ON` (R33). -/
  blOn : Bool
  /-- `LINES_VALID` (R34). -/
  linesValid : Bool
  /-- `SEQ` (R23). -/
  seq : SeqPos
  /-- `FRAME` (R25). -/
  frame : Frame
  /-- `CLIP` (R26). -/
  clip : Clip
  /-- `FBPTR` (R27), below `2^ADDR_W` when loaded from a descriptor. -/
  fbptr : Nat
  /-- `COLOR` (R27). -/
  color : Half
  /-- `REMAIN` (R27), a natural number that need not wrap. -/
  remain : Nat
  /-- `STATUS` (R35). -/
  status : Status
  /-- `OUT` (R36), oldest event first. -/
  out : List Entry
  /-- Host memory (R60), an input: the block never writes it. -/
  mem : Memory
  /-- The descriptors the host will present, in order; the head is presented whenever `SEQ` is idle (log entry 1). -/
  reqs : List (List Byte)
  /-- The environment's answers to the coming fallible events, in order (log entry 2). -/
  answers : List Answer
  /-- The model's own counter: TransferBuffers allocated so far; it selects free values (log entry 6). -/
  allocs : Nat
deriving DecidableEq, Repr

/-! ### Reasons a step stops -/

/-- Faults: the machine is stuck. -/
inductive Fault where
  /-- Raised by every meaning when it is given a request while an operation is in flight: R358 and U8 give
  such a request no step. `step` never raises it, since it presents a request only when idle. Safe. -/
  | requestWhileBusy
deriving DecidableEq, Repr

/-- Refusals: situations the spec gives no meaning (`refuse`, R9). All are safe: nothing can be proved of
a run that enters one. -/
inductive Refusal where
  /-- An instruction whose meaning is not written yet; raised by `exec` only. Safe. -/
  | notModelled (mnemonic : String)
  /-- SYNC, SYNCR, FILL with a ClipRect that breaks the invariant of R26 (U3, D20). Safe. -/
  | clipInvariant
  /-- A register-mapped bulk payload whose length is no multiple of 4 (R74, U4, D21): SYNC, SYNCR, FILL with
  odd N, CMD with the bulk-write byte. Safe. -/
  | bulkLength
  /-- SYNC, SYNCR with a misaligned source address (R74, U7, D16). Safe. -/
  | sourceMisaligned
  /-- SYNC, SYNCR whose source buffer is not readable (R76, U7). Safe. -/
  | sourceUnreadable
  /-- PROBE under a configuration that breaks the constraints of R6, R184, R219 (D4: "rejected as
  ill-formed"; log entry 16). Safe. -/
  | illFormedConfig
deriving DecidableEq, Repr

/-! ### Results of parts of a step -/

/-- What emitting one event gives. -/
inductive EmitResult where
  /-- The environment has not answered yet. -/
  | waiting
  /-- It failed with this kind; the state holds the failed entry. -/
  | failed (k : Status) (s : State)
  /-- It completed. -/
  | done (s : State)
deriving DecidableEq, Repr

/-- What performing one entry of an expansion gives. -/
inductive ActResult where
  | waiting
  | refused (r : Refusal)
  /-- The abort of R306 ran. -/
  | aborted (s : State)
  /-- The event completed and `SEQ` advanced by one. -/
  | advanced (s : State)
deriving DecidableEq, Repr

/-- One entry of an operation's expansion: exactly one event, with the latch updates the pseudocode puts
immediately before or after it. -/
inductive Act where
  /-- Emit a fixed event. -/
  | emit (e : Event)
  /-- Emit the last event of an initializer transition; on `ok`, `INIT_STATE <- st` (R211). -/
  | emitInit (e : Event) (st : InitState)
  /-- Emit a fixed event; on `ok`, `REMAIN <- m` (R133, R246). -/
  | emitRemain (e : Event) (m : Nat)
  /-- `RM.DAT32` of a fixed word; on `ok`, `REMAIN <- REMAIN - 4` (R133 cases (i) and (iii)). -/
  | word (w : Word)
  /-- `RM.DAT32` of word `j` of the source buffer, read now (R133 case (ii), R244). -/
  | wordHost (j : Nat)
  /-- Fill `TBUF` with pixels `i .. i+k-1`, then send it as one chunk (R246, R247, R158). -/
  | chunk (i k : Nat)
deriving DecidableEq, Repr

/-! ### Reset -/

/-- The state right after reset under a configuration: the table of R41. Where R41 says unspecified, the
operand latches hold zero (DESIGN CHOICE, log entry 5). -/
def State.resetWith (cfg : Config) : State where
  cfg := cfg
  devValid := false
  initState := .unreset
  tbufValid := false
  tbuf := []
  busHeld := false
  mode := .unknown
  select := .unknown
  rst := .unknown
  blOn := false
  linesValid := false
  seq := .idle
  frame := { cmd := 0, plen := 0, param := List.replicate cfg.paramMax 0 }
  clip := { x1 := 0, x2 := 0, y1 := 0, y2 := 0 }
  fbptr := 0
  color := 0
  remain := 0
  status := .ok
  out := []
  mem := []
  reqs := []
  answers := []
  allocs := 0

/-- Reset under the example configuration (DESIGN CHOICE, log entry 3). -/
def State.reset : State := State.resetWith Config.exampleRm

end Sys2Proof.Machine
end

