-- ==== Sys2Proof/Machine/Operands.lean ====
section
/-! DEFINITION. Operand arithmetic: the complete list of 43_clip_resolver.md R199, the clip resolver
(R195), the pixel count (R198), and the byte packing of 20_memory.md R70 to R72. -/

namespace Sys2Proof.Machine

open Sys2Proof

/-! ### Clip rectangle -/

/-- The invariant of R26: `0 ≤ x1 < x2 ≤ PANEL_W` and `0 ≤ y1 < y2 ≤ PANEL_H`. -/
def clipOk (cfg : Config) (c : Clip) : Bool :=
  decide (c.x1.toNat < c.x2.toNat) && decide (c.x2.toNat ≤ cfg.panelW.toNat) &&
    decide (c.y1.toNat < c.y2.toNat) && decide (c.y2.toNat ≤ cfg.panelH.toNat)

/-- The full extent of R93 and R200. -/
def fullClip (cfg : Config) : Clip := { x1 := 0, x2 := cfg.panelW, y1 := 0, y2 := cfg.panelH }

/-- `N` of R198, exact. -/
def pixelCount (c : Clip) : Nat := (c.x2.toNat - c.x1.toNat) * (c.y2.toNat - c.y1.toNat)

/-- The four parameter bytes of R104 for a start and an inclusive end. -/
def addrBlock (s e : Half) : List Byte := [hi s, lo s, hi e, lo e]

/-- The column block of R195: the half-open end less one. -/
def resolveCol (c : Clip) : List Byte := addrBlock c.x1 (c.x2 - 1)

/-- The row block of R195. -/
def resolveRow (c : Clip) : List Byte := addrBlock c.y1 (c.y2 - 1)

/-! ### Host order (R70) and packing (R71) -/

/-- The 16-bit value of two consecutive host bytes, the lower address first. -/
def hostHalf (le : Bool) (b0 b1 : Byte) : Half := if le then b1 ++ b0 else b0 ++ b1

/-- `pack32(b0, b1, b2, b3)` of R71. -/
def pack32 (le : Bool) (b0 b1 b2 b3 : Byte) : Word :=
  if le then b3 ++ b2 ++ b1 ++ b0 else b0 ++ b1 ++ b2 ++ b3

/-- The words of an inline payload: four bytes at a time (R133 case (i)). -/
def inlineWords (le : Bool) : List Byte → List Word
  | b0 :: b1 :: b2 :: b3 :: r => pack32 le b0 b1 b2 b3 :: inlineWords le r
  | _ => []

/-- The fill word `COLOR | COLOR<<16` of R105. -/
def fillWord (color : Half) : Word := color.setWidth 32 ||| (color.setWidth 32 <<< 16)

/-! ### TransferBuffer words (R247, R158) -/

/-- The word R247 stores for a pixel, so that its memory order is `hi`, `lo`. -/
def toWire (le : Bool) (p : Half) : Half := if le then lo p ++ hi p else p

/-- `wire_bytes` of R158: the two bytes a buffer word occupies in host memory, lower address first. -/
def wireBytes (le : Bool) (w : Half) : List Byte := if le then [lo w, hi w] else [hi w, lo w]

/-- The bytes of the first `k` buffer words: the transaction of R158. -/
def chunkBytes (le : Bool) (tbuf : List Half) (k : Nat) : List Byte :=
  (tbuf.take k).flatMap (wireBytes le)

/-- The parameter bytes of the frame in flight: entries at `PLEN` and above are not read (R25). -/
def Frame.params (f : Frame) : List Byte := f.param.take f.plen

/-- Load FRAME from a CMD (R93): entries at `n` and above keep what they held (log entry 17). -/
def Frame.load (f : Frame) (c : Byte) (p : List Byte) : Frame :=
  { cmd := c, plen := p.length, param := p ++ f.param.drop p.length }

end Sys2Proof.Machine
end

