-- ==== Sys2Proof/Machine/Flags.lean ====
section
/-! DEFINITION. The status bits as gates. The block has no condition codes (10_state.md R37); what reads its
status bits is the state check of 60_exceptions.md R303 and the fallibility table of 20_memory.md R67. -/

namespace Sys2Proof.Machine

open Sys2Proof

/-! ### Codes -/

/-- The three-bit encoding of R22. -/
def InitState.code : InitState → BitVec 3
  | .unreset => 0
  | .hardReset => 1
  | .softReset => 2
  | .configuringDisplay => 3
  | .sleepExit => 4
  | .displayOn => 5

/-- The numbers of R300. -/
def Status.code : Status → Nat
  | .ok => 0
  | .resourceUnavailable => 1
  | .allocationFailure => 2
  | .busError => 3
  | .unsupported => 4
  | .notReady => 5
  | .badRequest => 6

/-! ### Gates and fallibility -/

/-- CMD is accepted (R303). -/
def State.deviceUp (s : State) : Bool := s.devValid

/-- SYNC, SYNCR, FILL are accepted (R303): `DEV_VALID = 1` and `INIT_STATE = DisplayOn`. -/
def State.blitReady (s : State) : Bool := s.devValid && decide (s.initState = .displayOn)

/-- Which events can fail (R67): the reset line only on a serial device (D25). -/
def Event.fallible (v : Variant) : Event → Bool
  | .rmSel _ | .rmCmd8 _ | .rmDat8 _ | .rmDat32 _ => false
  | .serClaim | .serDc _ | .serXfer _ => true
  | .serRelease => false
  | .rst _ => decide (v = .ser)
  | .delay _ => false
  | .blOn | .resGet | .resAlloc => true
  | .resFree | .resPut => false

/-- The error kind of a failed event (R301, R286, R287, R216). -/
def Event.failStatus (a : Answer) : Event → Status
  | .resGet => if a = .unsupported then .unsupported else .resourceUnavailable
  | .resAlloc => .allocationFailure
  | .blOn => .resourceUnavailable
  | .rmSel _ | .rmCmd8 _ | .rmDat8 _ | .rmDat32 _ => .busError
  | .serClaim | .serRelease | .serDc _ | .serXfer _ => .busError
  | .rst _ | .delay _ | .resFree | .resPut => .busError

end Sys2Proof.Machine
end

