-- ==== Sys2Proof/Machine/Ops.lean ====
section
/-! DEFINITION. The shared operations: host memory (20_memory.md R70), emitting an event (R66, R67), the
abort, which is the block's taking of an exception (60_exceptions.md R306), rejection (R303), and
completion (R24). -/

namespace Sys2Proof.Machine

open Sys2Proof

/-! ### Host memory -/

/-- Canonical form: addresses strictly rising. An unlisted address has no value, so no entry can equal
what it reads as. -/
abbrev Memory.wf (m : Memory) : Prop := m.Pairwise fun a b => a.1 < b.1

/-- The byte listed at an address. -/
def Memory.lookup : Memory → Nat → Option Byte
  | [], _ => none
  | (b, v) :: r, a => if b = a then some v else Memory.lookup r a

/-- A host store of one byte, keeping the canonical form. -/
def Memory.write : Memory → Nat → Byte → Memory
  | [], a, v => [(a, v)]
  | (b, w) :: r, a, v =>
    if a < b then (a, v) :: (b, w) :: r
    else if a = b then (a, v) :: r
    else (b, w) :: Memory.write r a v

/-- The host stores a byte between operations. The block itself never writes host memory (R9). -/
def State.hostStore (s : State) (a : Nat) (v : Byte) : State := { s with mem := s.mem.write a v }

/-- `MemRead(a, 1)`: the address must lie in the address space and be readable (R76). -/
def State.memByte (s : State) (a : Nat) : Option Byte :=
  if a < 2 ^ s.cfg.addrW then s.mem.lookup a else none

/-- `MemRead(a, 2)` in host order (R70). -/
def State.memHalf (s : State) (a : Nat) : Option Half :=
  match s.memByte a, s.memByte (a + 1) with
  | some b0, some b1 => some (hostHalf s.cfg.hostLE b0 b1)
  | _, _ => none

/-- `MemRead(a, 4)` in host order (R70, R71). -/
def State.memWord (s : State) (a : Nat) : Option Word :=
  match s.memByte a, s.memByte (a + 1), s.memByte (a + 2), s.memByte (a + 3) with
  | some b0, some b1, some b2, some b3 => some (pack32 s.cfg.hostLE b0 b1 b2 b3)
  | _, _, _, _ => none

/-- `[a, a + n)` is readable host memory (R76). -/
def State.readable (s : State) (a n : Nat) : Bool :=
  (List.range n).all fun j => (s.memByte (a + j)).isSome

/-! ### Emitting an event -/

/-- Append an event to `OUT` with its mark (R36). -/
def State.record (s : State) (e : Event) (ok : Bool) : State := { s with out := s.out ++ [⟨e, ok⟩] }

/-- The `C` words of a fresh TransferBuffer: free values (R287, log entry 6). -/
def State.freshTbuf (s : State) : List Half :=
  (List.range s.cfg.capC).map (Config.freeTbufWord s.allocs)

/-- The state an event writes when it completes: the last column of the table of R66. -/
def Event.apply (e : Event) (s : State) : State :=
  match e with
  | .rmSel v => { s with select := .written v }
  | .rmCmd8 _ => s
  | .rmDat8 _ => s
  | .rmDat32 _ => s
  | .serClaim => { s with busHeld := true }
  | .serRelease => { s with busHeld := false }
  | .serDc m => { s with mode := .driven m }
  | .serXfer _ => s
  | .rst v => { s with rst := .driven v }
  | .delay _ => s
  | .blOn => { s with blOn := true }
  | .resGet =>
    match s.cfg.variant with
    | .rm => s
    | .ser => { s with linesValid := true }
  | .resAlloc => { s with tbufValid := true, tbuf := s.freshTbuf, allocs := s.allocs + 1 }
  | .resFree => { s with tbufValid := false, tbuf := [] }
  | .resPut => { s with linesValid := false }

/-- The event is performed and completes. -/
def State.perform (s : State) (e : Event) : State := e.apply (s.record e true)

/-- `emit E` (R9): an infallible event completes; a fallible one takes the next answer of the
environment, and waits while there is none (R24, R359). -/
def emit (e : Event) (s : State) : EmitResult :=
  if e.fallible s.cfg.variant then
    match s.answers with
    | [] => .waiting
    | a :: rest =>
      let s1 := { s with answers := rest }
      if a = .ok then .done (s1.perform e)
      else .failed (e.failStatus a) (s1.record e false)
  else .done (s.perform e)

/-! ### Taking an exception, and rejection -/

/-- Destroy the device record (R288, R290): free the buffer if valid, release the lines if valid. -/
def State.destroyRecord (s : State) : State :=
  let s1 := if s.tbufValid then s.perform .resFree else s
  let s2 := if s1.linesValid then s1.perform .resPut else s1
  { s2 with devValid := false, initState := .unreset, blOn := false }

/-- The guaranteed release of R306 and R161. -/
def State.releaseIfHeld (s : State) : State := if s.busHeld then s.perform .serRelease else s

/-- The abort of R306, the block's taking of an exception: the failed event is already recorded; release
the bus if held, destroy PROBE's half-built record, report the kind, go idle. Nothing is saved, and
there is no return from it (R307): the block simply accepts the next request. -/
def takeAbort (op : Op) (k : Status) (s : State) : State :=
  let s1 := s.releaseIfHeld
  let s2 := match op with
    | .probe => s1.destroyRecord
    | .remove _ _ => s1
    | .cmd => s1
    | .sync => s1
    | .syncr => s1
    | .fill => s1
  { s2 with status := k, seq := .idle }

/-- Rejection before any event: only `STATUS` changes (R303). -/
def State.reject (s : State) (k : Status) : State := { s with status := k }

/-! ### Performing one entry of an expansion -/

/-- The words R247 stores for pixels `i .. i+k-1` of the source buffer, read now (R83). -/
def pixelWords (s : State) (i : Nat) : Nat → Option (List Half)
  | 0 => some []
  | k + 1 =>
    match s.memHalf (s.fbptr + 2 * i), pixelWords s (i + 1) k with
    | some p, some r => some (toWire s.cfg.hostLE p :: r)
    | _, _ => none

/-- `fill(i, k)` of R247: it overwrites `TBUF[0 .. k-1]` only. -/
def fillTbuf (s : State) (i k : Nat) : Option State :=
  (pixelWords s i k).map fun ws => { s with tbuf := ws ++ s.tbuf.drop k }

/-- What an entry does before its event, and the event it emits; none where host memory it must read is
not readable (U7). -/
def Act.prep (a : Act) (s : State) : Option (State × Event) :=
  match a with
  | .emit e => some (s, e)
  | .emitInit e _ => some (s, e)
  | .emitRemain e _ => some (s, e)
  | .word w => some (s, .rmDat32 w)
  | .wordHost j => (s.memWord (s.fbptr + 4 * j)).map fun w => (s, .rmDat32 w)
  | .chunk i k => (fillTbuf s i k).map fun s1 => (s1, .serXfer (chunkBytes s1.cfg.hostLE s1.tbuf k))

/-- What an entry does after its event completed. -/
def Act.post (a : Act) (s : State) : State :=
  match a with
  | .emit _ => s
  | .emitInit _ st => { s with initState := st }
  | .emitRemain _ m => { s with remain := m }
  | .word _ => { s with remain := s.remain - 4 }
  | .wordHost _ => { s with remain := s.remain - 4 }
  | .chunk _ k => { s with remain := s.remain - 2 * k }

/-- `SEQ <- (op, k+1)` (R24). -/
def State.advance (s : State) : State :=
  match s.seq with
  | .idle => s
  | .busy op k => { s with seq := .busy op (k + 1) }

/-- One entry of the expansion of `op` (R24): wait, abort, or advance by exactly one. -/
def performAct (op : Op) (a : Act) (s : State) : ActResult :=
  match a.prep s with
  | none => .refused .sourceUnreadable
  | some (s1, e) =>
    match emit e s1 with
    | .waiting => .waiting
    | .failed k s2 => .aborted (takeAbort op k s2)
    | .done s2 => .advanced (a.post s2).advance

/-- The whole expansion was emitted (R24): `DEV_VALID` as R285 and R290 say, status `OK`, idle. -/
def complete (op : Op) (s : State) : State :=
  let s1 := match op with
    | .probe => { s with devValid := true }
    | .remove _ _ => { s with devValid := false, initState := .unreset, blOn := false }
    | .cmd => s
    | .sync => s
    | .syncr => s
    | .fill => s
  { s1 with status := .ok, seq := .idle }

end Sys2Proof.Machine
end

