-- ==== Sys2Proof/Machine/Transport.lean ====
section
/-! DEFINITION. The two transports as expansions: register-mapped (40_register_mapped_transport.md), serial
(41_serial_transport.md), the command formatter and bulk router above them (42_command_encoder.md) and
the window commands (43_clip_resolver.md R196). -/

namespace Sys2Proof.Machine

open Sys2Proof

/-! ### Register-mapped transport -/

/-- `rm_send(c, p)`, the narrow frame of R131 and R100. -/
def rmSend (c : Byte) (p : List Byte) : List Act :=
  [.emit (.rmSel true), .emit (.rmCmd8 c)] ++ p.map (fun b => .emit (.rmDat8 b)) ++ [.emit (.rmSel false)]

/-- `rm_bulk`, the wide frame of R133 and R101, around the entries that send its words; `m` is the
payload length in bytes, loaded into `REMAIN` after the command byte. -/
def rmBulk (cfg : Config) (m : Nat) (words : List Act) : List Act :=
  [.emit (.rmSel true), .emitRemain (.rmCmd8 cfg.cmdBulkWrite) m] ++ words ++ [.emit (.rmSel false)]

/-- R133 case (i): inline parameter bytes of a CMD. -/
def rmBulkInline (cfg : Config) (p : List Byte) : List Act :=
  rmBulk cfg p.length ((inlineWords cfg.hostLE p).map .word)

/-- R133 case (ii): `m` bytes of the host buffer at `FBPTR`. -/
def rmBulkHost (cfg : Config) (m : Nat) : List Act := rmBulk cfg m ((List.range (m / 4)).map .wordHost)

/-- R133 case (iii) and R272: a constant word, `m` bytes of it. -/
def rmBulkFill (cfg : Config) (color : Half) (m : Nat) : List Act :=
  rmBulk cfg m (List.replicate (m / 4) (.word (fillWord color)))

/-! ### Serial transport -/

/-- `ser_send(c, d)`, the frame of R152 and R102: every byte its own transaction (R154). -/
def serSend (c : Byte) (d : List Byte) : List Act :=
  [.emit (.serDc .command), .emit (.serXfer [c])] ++
    (match d with
     | [] => []
     | _ :: _ => .emit (.serDc .data) :: d.map (fun b => .emit (.serXfer [b])))

/-- The bracket of `claim()` (R160) and `release()` (R161): on a serial device the outermost operation
owns one claim and one release (R150); a register-mapped device has neither. -/
def claimed (cfg : Config) (body : List Act) : List Act :=
  match cfg.variant with
  | .rm => body
  | .ser => .emit .serClaim :: body ++ [.emit .serRelease]

/-- The chunk loop of R246, `n` pixels from index `i` on; `fuel` bounds the number of chunks. -/
def chunkLoop (capC : Nat) : (fuel i n : Nat) → List Act
  | 0, _, _ => []
  | fuel + 1, i, n =>
    if n = 0 then []
    else .chunk i (min capC n) :: chunkLoop capC fuel (i + min capC n) (n - min capC n)

/-- The serial bulk path of R183 and R246 for `n` pixels: header, one `SER.DC(data)`, the chunks. -/
def serBulk (cfg : Config) (n : Nat) : List Act :=
  serSend cfg.cmdBulkWrite [] ++ [.emitRemain (.serDc .data) (2 * n)] ++ chunkLoop cfg.capC n 0 n

/-! ### Command encoder -/

/-- `command(c, p)` of R181: the formatter forwards to the bound transport. The test on the command byte
is made once, inside the register-mapped arm (R132, R182). -/
def sendCommand (cfg : Config) (c : Byte) (p : List Byte) : List Act :=
  match cfg.variant with
  | .rm => if c = cfg.cmdBulkWrite then rmBulkInline cfg p else rmSend c p
  | .ser => serSend c p

/-- `send_bulk` of R183 with the host buffer at `FBPTR` as source, `n` pixels. -/
def sendBulkHost (cfg : Config) (n : Nat) : List Act :=
  match cfg.variant with
  | .rm => rmBulkHost cfg (2 * n)
  | .ser => serBulk cfg n

/-- `set_window()` of R196: column command, then row command. -/
def setWindow (cfg : Config) (c : Clip) : List Act :=
  sendCommand cfg cfg.cmdColAddr (resolveCol c) ++ sendCommand cfg cfg.cmdRowAddr (resolveRow c)

end Sys2Proof.Machine
end

