-- ==== Sys2Proof/Machine/Initializer.lean ====
section
/-! DEFINITION. The panel initializer, 44_panel_initializer.md: five transitions in one order. -/

namespace Sys2Proof.Machine

open Sys2Proof

/-- The last event of a list of entries closes a transition: `INIT_STATE <- st` when it has completed
(R211; log entry 10 for the transition that R214 ends without a delay). -/
def closing (st : InitState) : List Act → List Act
  | [] => []
  | [.emit e] => [.emitInit e st]
  | a :: r => a :: closing st r

/-- R212: the hardware reset pulse. -/
def hardResetActs : List Act :=
  [.emit (.rst .asserted), .emit (.delay 10), .emit (.rst .released), .emitInit (.delay 120) .hardReset]

/-- R213: soft reset, then at least 240 ms. -/
def softResetActs (cfg : Config) : List Act :=
  sendCommand cfg cfg.cmdSoftReset [] ++ [.emitInit (.delay 240) .softReset]

/-- R214: the fourteen configuration commands in slot order. -/
def configureActs (cfg : Config) : List Act :=
  closing .configuringDisplay (cfg.initTable.flatMap fun e => sendCommand cfg e.cmd e.params)

/-- R215: sleep exit, then at least 120 ms. -/
def sleepExitActs (cfg : Config) : List Act :=
  sendCommand cfg cfg.cmdSleepExit [] ++ [.emitInit (.delay 120) .sleepExit]

/-- The commands between the bus claim and the bus release of R217. -/
def busPhaseActs (cfg : Config) : List Act :=
  softResetActs cfg ++ configureActs cfg ++ sleepExitActs cfg ++ sendCommand cfg cfg.cmdDisplayOn []

/-- `init()` of R210 and R222. On a serial device the claim stands immediately before the soft-reset
command and the release immediately after the display-on command (R217). -/
def initActs (cfg : Config) : List Act :=
  hardResetActs ++ claimed cfg (busPhaseActs cfg) ++ [.emit (.delay 50), .emitInit .blOn .displayOn]

end Sys2Proof.Machine
end

