-- ==== Sys2Proof/Machine/Sequencer.lean ====
section
/-! DEFINITION. The sequencer, 10_state.md R23 and R24: the expansion of an operation, one step of it, and
its run as far as the environment answers (00_scope.md R10). -/

namespace Sys2Proof.Machine

open Sys2Proof

/-- PROBE's expansion (R285): obtain the resources, allocate on a serial device, initialize. -/
def probeActs (cfg : Config) : List Act :=
  .emit .resGet ::
    (match cfg.variant with
     | .rm => []
     | .ser => [.emit .resAlloc]) ++ initActs cfg

/-- REMOVE's expansion (R290): each resource checked for validity before release. -/
def removeActs (free put : Bool) : List Act :=
  (if free then [.emit .resFree] else []) ++ (if put then [.emit .resPut] else [])

/-- CMD's expansion (R180). -/
def cmdActs (cfg : Config) (f : Frame) : List Act := claimed cfg (sendCommand cfg f.cmd f.params)

/-- The common body `blit()` of R242. -/
def blitActs (cfg : Config) (c : Clip) : List Act :=
  claimed cfg (setWindow cfg c ++ sendBulkHost cfg (pixelCount c))

/-- FILL's expansion (R270, R273). -/
def fillActs (cfg : Config) (c : Clip) (color : Half) : List Act :=
  setWindow cfg c ++ rmBulkFill cfg color (2 * pixelCount c)

/-- `expand(op)` of R24: a function of the configuration and the operand latches. -/
def expand (s : State) : Op → List Act
  | .probe => probeActs s.cfg
  | .remove free put => removeActs free put
  | .cmd => cmdActs s.cfg s.frame
  | .sync => blitActs s.cfg s.clip
  | .syncr => blitActs s.cfg s.clip
  | .fill => fillActs s.cfg s.clip s.color

/-- One step of the sequencer (R24). With `SEQ = (op, k)`: complete when `k = len(E)`, else perform
`E[k]`; an unanswered event leaves everything as it is (R359). -/
def seqStep (s : State) : Host.Outcome State Fault Refusal :=
  match s.seq with
  | .idle => .next s
  | .busy op k =>
    match (expand s op)[k]? with
    | none => .next (complete op s)
    | some a =>
      match performAct op a s with
      | .waiting => .next s
      | .refused r => .refused r
      | .aborted s1 => .next s1
      | .advanced s1 => .next s1

/-- The rest of an expansion, performed as far as the environment answers: to completion, to the first
failing event, or to an event that is not answered yet. -/
def runActs (op : Op) : List Act → State → Host.Outcome State Fault Refusal
  | [], s => .next (complete op s)
  | a :: rest, s =>
    match performAct op a s with
    | .waiting => .next s
    | .refused r => .refused r
    | .aborted s1 => .next s1
    | .advanced s1 => runActs op rest s1

/-- Accept a request whose latches are loaded: `SEQ <- (op, 0)` (R23), then run its expansion. -/
def launch (op : Op) (s : State) : Host.Outcome State Fault Refusal :=
  runActs op (expand s op) { s with seq := .busy op 0 }

/-- A request is looked at only when `SEQ = IDLE`; while an operation is in flight it has no step (R358,
U8). -/
def whenIdle (s : State) (body : Host.Outcome State Fault Refusal) : Host.Outcome State Fault Refusal :=
  match s.seq with
  | .idle => body
  | .busy _ _ => .fault .requestWhileBusy

end Sys2Proof.Machine
end

