-- ==== Sys2Proof/Machine/Blit.lean ====
section
/-! DEFINITION. SYNC and SYNCR, 45_blit_sync.md. -/

namespace Sys2Proof.Machine

open Sys2Proof

/-- The alignment R74 requires of `FBPTR`. -/
def sourceAlign : Variant → Nat
  | .rm => 4
  | .ser => 2

/-- The preconditions of a blit with its latches loaded, in a fixed order, then the body of R242. All are
checked at acceptance (log entry 9): the clip invariant (R241, U3), even `N` on the register-mapped
path (R243, U4), alignment (R74) and readability of the source buffer (R76, U7). -/
def startBlit (op : Op) (s : State) : Host.Outcome State Fault Refusal :=
  if !clipOk s.cfg s.clip then .refused .clipInvariant
  else if decide (s.cfg.variant = .rm) && decide (pixelCount s.clip % 2 ≠ 0) then .refused .bulkLength
  else if s.fbptr % sourceAlign s.cfg.variant ≠ 0 then .refused .sourceMisaligned
  else if !s.readable s.fbptr (2 * pixelCount s.clip) then .refused .sourceUnreadable
  else launch op s

/-- SYNC (R240): the full panel extent. -/
def execSync (fb : Nat) (s : State) : Host.Outcome State Fault Refusal :=
  whenIdle s <|
    if !s.blitReady then .next (s.reject .notReady)
    else startBlit .sync { s with fbptr := fb, clip := fullClip s.cfg }

/-- SYNCR (R241): a clip region. -/
def execSyncr (fb : Nat) (x1 x2 y1 y2 : Half) (s : State) : Host.Outcome State Fault Refusal :=
  whenIdle s <|
    if !s.blitReady then .next (s.reject .notReady)
    else startBlit .syncr { s with fbptr := fb, clip := { x1 := x1, x2 := x2, y1 := y1, y2 := y2 } }

end Sys2Proof.Machine
end

