-- ==== Sys2Proof/Machine/Command.lean ====
section
/-! DEFINITION. CMD, 42_command_encoder.md R180. -/

namespace Sys2Proof.Machine

open Sys2Proof

/-- The command takes the wide path of a register-mapped device (R132). -/
def takesWidePath (cfg : Config) (c : Byte) : Bool := decide (cfg.variant = .rm) && decide (c = cfg.cmdBulkWrite)

/-- CMD (R180): `BadRequest` beyond `PARAM_MAX`, `NotReady` without a device (R303), `refuse` for a wide
payload that is no multiple of 4 (R133, U4). -/
def execCmd (c : Byte) (p : List Byte) (s : State) : Host.Outcome State Fault Refusal :=
  whenIdle s <|
    if s.cfg.paramMax < p.length then .next (s.reject .badRequest)
    else if !s.deviceUp then .next (s.reject .notReady)
    else if takesWidePath s.cfg c && decide (p.length % 4 ≠ 0) then .refused .bulkLength
    else launch .cmd { s with frame := s.frame.load c p }

end Sys2Proof.Machine
end

