-- ==== Sys2Proof/Machine/Fill.lean ====
section
/-! DEFINITION. FILL, 46_solid_fill.md. -/

namespace Sys2Proof.Machine

open Sys2Proof

/-- The preconditions of a fill with its latches loaded (R270, R274), then its expansion (R273). -/
def startFill (s : State) : Host.Outcome State Fault Refusal :=
  if !clipOk s.cfg s.clip then .refused .clipInvariant
  else if pixelCount s.clip % 2 ≠ 0 then .refused .bulkLength
  else launch .fill s

/-- FILL (R270): state check, then variant check (R303), then the fill. -/
def execFill (color : Half) (x1 x2 y1 y2 : Half) (s : State) : Host.Outcome State Fault Refusal :=
  whenIdle s <|
    if !s.blitReady then .next (s.reject .notReady)
    else if s.cfg.variant = .ser then .next (s.reject .unsupported)
    else startFill { s with color := color, clip := { x1 := x1, x2 := x2, y1 := y1, y2 := y2 } }

end Sys2Proof.Machine
end

