-- ==== Sys2Proof/Machine/Lifecycle.lean ====
section
/-! DEFINITION. PROBE and REMOVE, 47_lifecycle.md. -/

namespace Sys2Proof.Machine

open Sys2Proof

/-- PROBE (R285): rejected with `NotReady` while a device record exists (R303). A configuration that
breaks its constraints is refused (R184, log entry 16). -/
def execProbe (s : State) : Host.Outcome State Fault Refusal :=
  whenIdle s <|
    if s.devValid then .next (s.reject .notReady)
    else if s.cfg.wf then launch .probe s
    else .refused .illFormedConfig

/-- REMOVE (R290): accepted in every state; the expansion is fixed by the two validity bits found now. -/
def execRemove (s : State) : Host.Outcome State Fault Refusal :=
  whenIdle s (launch (.remove s.tbufValid s.linesValid) s)

end Sys2Proof.Machine
end

