-- ==== Sys2Proof/Machine/Dispatch.lean ====
section
/-! DEFINITION. One arm per operation of 30_encoding.md R94. -/

namespace Sys2Proof.Machine

open Sys2Proof

def exec (i : Instr) (s : State) : Host.Outcome State Fault Refusal :=
  match i with
  | .probe => Sys2Proof.Machine.execProbe s
  | .remove => Sys2Proof.Machine.execRemove s
  | .cmd c p => Sys2Proof.Machine.execCmd c p s
  | .sync fb => Sys2Proof.Machine.execSync fb s
  | .syncr fb x1 x2 y1 y2 => Sys2Proof.Machine.execSyncr fb x1 x2 y1 y2 s
  | .fill color x1 x2 y1 y2 => Sys2Proof.Machine.execFill color x1 x2 y1 y2 s

end Sys2Proof.Machine
end

