-- ==== Sys2Proof/Machine/Ports.lean ====
section
/-! DEFINITION. What an event does on its port: the registers of 10_state.md R38, the widths of
20_memory.md R68, the lines and the serial channel of R60. The machine itself works on events and never
on addresses (D8); this file ties the OPEN addresses of R6 to them. -/

namespace Sys2Proof.Machine

open Sys2Proof

/-- One access of a port. -/
inductive PortAccess where
  /-- A write of the control register; its width is not given (R68). -/
  | ctrlWrite (addr value : Nat)
  /-- An 8-bit register write. -/
  | write8 (addr : Nat) (v : Byte)
  /-- A 32-bit register write, one access. -/
  | write32 (addr : Nat) (v : Word)
  /-- The mode-select line is driven. -/
  | dcLine (handle : Nat) (m : DcLevel)
  /-- The reset line of a serial device is driven. -/
  | rstLine (handle : Nat) (v : RstLevel)
  /-- The reset line of a register-mapped device, whose realisation is open (R32, D25). -/
  | rstOpen (v : RstLevel)
  /-- One chip-select-framed transaction. -/
  | transaction (bs : List Byte)
  /-- Claim or release of the shared bus. -/
  | arbiter (claim : Bool)
  /-- The delay timer (R312). -/
  | timer (ms : Nat)
  /-- The backlight collaborator. -/
  | backlight
  /-- A resource collaborator (R314). -/
  | resource
deriving DecidableEq, Repr

/-- The value of a control register write: the constant of D36 with the select bit set or cleared. -/
def ctrlValue (cfg : Config) (v : Bool) : Nat :=
  if cfg.ctrlOther.testBit cfg.selectBit = v then cfg.ctrlOther
  else cfg.ctrlOther ^^^ (2 ^ cfg.selectBit)

/-- The one access each event makes (R66, R68). -/
def Event.access (cfg : Config) : Event → PortAccess
  | .rmSel v => .ctrlWrite (cfg.base + cfg.offCtrl) (ctrlValue cfg v)
  | .rmCmd8 b => .write8 (cfg.base + cfg.offCmd) b
  | .rmDat8 b => .write8 (cfg.base + cfg.offData) b
  | .rmDat32 w => .write32 (cfg.base + cfg.offData) w
  | .serClaim => .arbiter true
  | .serRelease => .arbiter false
  | .serDc m => .dcLine cfg.dcLine m
  | .serXfer bs => .transaction bs
  | .rst v =>
    match cfg.variant with
    | .rm => .rstOpen v
    | .ser => .rstLine cfg.rstLine v
  | .delay t => .timer t
  | .blOn => .backlight
  | .resGet => .resource
  | .resAlloc => .resource
  | .resFree => .resource
  | .resPut => .resource

end Sys2Proof.Machine
end

