-- ==== Sys2Proof/Machine/Step.lean ====
section
/-! DEFINITION. One step of the machine. Idle, it takes the descriptor the host presents (30_encoding.md
R90), decodes it, and runs the operation; with an operation in flight it takes one step of the
sequencer (10_state.md R24). -/

namespace Sys2Proof.Machine

open Sys2Proof

def step (s : State) : Host.Outcome State Fault Refusal :=
  match s.seq with
  | .busy _ _ => seqStep s
  | .idle =>
    match s.reqs with
    | [] => .next s
    | d :: rest =>
      match decode s.cfg d with
      | .error _ => .next (State.reject { s with reqs := rest } .badRequest)
      | .ok i => exec i { s with reqs := rest }

/-- Present the opcode-table word `w` as the next descriptor. The fetch happens only when idle, so the
sequencer is made idle (log entry 20). -/
def State.withFetchWord (s : State) (nbits w : Nat) : State :=
  { s with seq := .idle, reqs := tableBytes s.cfg nbits w :: s.reqs.drop 1 }

end Sys2Proof.Machine
end

