-- ==== Sys2Proof/Safety.lean ====
section
/-! DEFINITION. What counts as a safe run, in the terms the statements use: the invariant of 10_state.md R42
extended to operations in flight, the legality of a trace (30_encoding.md R107), the sequencer iterated
(00_scope.md R10), and the event lists the spec writes out in full. -/

namespace Sys2Proof.Machine

open Sys2Proof

/-! ### The status bits and the invariant of R42 -/

/-- The bits of the device record that R42 speaks of. -/
structure Bits where
  held : Bool
  selOn : Bool
  tbufV : Bool
  linesV : Bool
  bl : Bool
  dev : Bool
  init : InitState
deriving DecidableEq, Repr

/-- The bits of a state. -/
def State.bits (s : State) : Bits where
  held := s.busHeld
  selOn := decide (s.select = .written true)
  tbufV := s.tbufValid
  linesV := s.linesValid
  bl := s.blOn
  dev := s.devValid
  init := s.initState

/-- No device record: R42 (a), (b), (d), (f). -/
def Bits.down : Bits where
  held := false
  selOn := false
  tbufV := false
  linesV := false
  bl := false
  dev := false
  init := .unreset

/-- A ready device: R42 (a), (b), (c), (e), (f). -/
def Bits.up (v : Variant) : Bits where
  held := false
  selOn := false
  tbufV := decide (v = .ser)
  linesV := decide (v = .ser)
  bl := true
  dev := true
  init := .displayOn

/-- What a completed event does to the bits (last column of R66). -/
def Event.onBits (v : Variant) (e : Event) (b : Bits) : Bits :=
  match e with
  | .rmSel x => { b with selOn := x }
  | .serClaim => { b with held := true }
  | .serRelease => { b with held := false }
  | .blOn => { b with bl := true }
  | .resGet => { b with linesV := b.linesV || decide (v = .ser) }
  | .resAlloc => { b with tbufV := true }
  | .resFree => { b with tbufV := false }
  | .resPut => { b with linesV := false }
  | .rmCmd8 _ | .rmDat8 _ | .rmDat32 _ | .serDc _ | .serXfer _ | .rst _ | .delay _ => b

/-- What a completed entry of an expansion does to the bits. -/
def Act.onBits (v : Variant) (a : Act) (b : Bits) : Bits :=
  match a with
  | .emit e => e.onBits v b
  | .emitInit e st => { e.onBits v b with init := st }
  | .emitRemain e _ => e.onBits v b
  | .word _ | .wordHost _ | .chunk _ _ => b

/-- The bits after a list of entries, from given bits. -/
def bitsAfter (v : Variant) (as : List Act) (b : Bits) : Bits := as.foldl (fun b a => a.onBits v b) b

/-- The bits an operation may start from: what its gate (R303) lets through. -/
def Op.startsFrom (v : Variant) (b : Bits) : Op → Prop
  | .probe => b = Bits.down
  | .remove free put => (b = Bits.down ∨ b = Bits.up v) ∧ b.tbufV = free ∧ b.linesV = put
  | .cmd => b = Bits.up v
  | .sync => b = Bits.up v
  | .syncr => b = Bits.up v
  | .fill => b = Bits.up v ∧ v = .rm

/-- The sequencer part of the invariant: idle, R42; in flight at `(op, k)`, the bits are what the first
`k` entries of the expansion leave. -/
def State.SeqInv (s : State) : Prop :=
  match s.seq with
  | .idle => s.bits = Bits.down ∨ s.bits = Bits.up s.cfg.variant
  | .busy op k =>
    k ≤ (expand s op).length ∧
      ∃ b, op.startsFrom s.cfg.variant b ∧ s.bits = bitsAfter s.cfg.variant ((expand s op).take k) b

/-- The invariant every step keeps. -/
structure State.Inv (s : State) : Prop where
  /-- The configuration meets R6, R184, R219. -/
  cfgWf : s.cfg.wf = true
  /-- Host memory is in canonical form. -/
  memWf : Memory.wf s.mem
  /-- The parameter array has `PARAM_MAX` entries (R25). -/
  paramLen : s.frame.param.length = s.cfg.paramMax
  /-- `FRAME.PLEN ≤ PARAM_MAX` (R25). -/
  plenLe : s.frame.plen ≤ s.cfg.paramMax
  /-- The TransferBuffer has `C` words while it is allocated (R28), none otherwise (log entry 7). -/
  tbufLen : s.tbuf.length = if s.tbufValid then s.cfg.capC else 0
  /-- R42, and its form in flight. -/
  seqInv : s.SeqInv

/-! ### Legal traces (R107, and the brackets of R81, R131, R161) -/

/-- What an observer of the ports remembers. -/
structure Mon where
  /-- The select bit is asserted. -/
  sel : Bool
  /-- The command byte of the register-mapped frame in flight. -/
  rmCmd : Option Byte
  /-- The serial bus is held. -/
  held : Bool
  /-- The level of the mode-select line within this claim. -/
  line : Option DcLevel
  /-- The command byte of the serial frame in flight. -/
  serCmd : Option Byte
deriving DecidableEq, Repr

/-- Between operations. -/
def Mon.start : Mon where
  sel := false
  rmCmd := none
  held := false
  line := none
  serCmd := none

/-- A transaction under the mode-select line: one byte for a command byte or a parameter byte (R107 (d)); a
multi-byte one only as pixel payload under the bulk-write command (R103). -/
def Mon.onXfer (bulk : Byte) (m : Mon) (bs : List Byte) (ok : Bool) : Option Mon :=
  match m.line, m.serCmd, bs with
  | some .command, none, [c] => some (if ok then { m with serCmd := some c } else m)
  | some .data, some _, [_] => some m
  | some .data, some c, _ :: _ :: _ => if c = bulk then some m else none
  | _, _, _ => none

/-- One trace entry, or none where R107 forbids it: (a), (b), (c) in the register-mapped cases, (d), (e),
(f) in the serial ones. Nothing else is emitted inside a select bracket (R131), and inside a claim only
`SER.DC`, `SER.XFER` and `DELAY` (R161). -/
def Mon.next (bulk : Byte) (m : Mon) (x : Entry) : Option Mon :=
  match x.ev with
  | .rmSel v => if m.held || m.sel == v then none else some { m with sel := v, rmCmd := none }
  | .rmCmd8 c => if m.sel && decide (m.rmCmd = none) then some { m with rmCmd := some c } else none
  | .rmDat8 _ => if m.sel && m.rmCmd.any (fun c => decide (c ≠ bulk)) then some m else none
  | .rmDat32 _ => if m.sel && decide (m.rmCmd = some bulk) then some m else none
  | .serClaim => if m.held || m.sel then none else some { m with held := x.ok }
  | .serRelease => if m.held then some { m with held := false, line := none, serCmd := none } else none
  | .serDc l =>
    if m.held then
      some (match x.ok, l with
        | false, _ => m
        | true, .command => { m with line := some .command, serCmd := none }
        | true, .data => { m with line := some .data })
    else none
  | .serXfer bs => if m.held then m.onXfer bulk bs x.ok else none
  | .delay _ => if m.sel then none else some m
  | .rst _ | .blOn | .resGet | .resAlloc | .resFree | .resPut => if m.sel || m.held then none else some m

/-- The observer after a trace; none once R107 was broken. -/
def Mon.run (bulk : Byte) (m : Mon) (xs : List Entry) : Option Mon := xs.foldlM (Mon.next bulk) m

/-- The event of an entry of an expansion as the observer sees it: the payload is of no matter to it. -/
def Act.shape : Act → Event
  | .emit e => e
  | .emitInit e _ => e
  | .emitRemain e _ => e
  | .word w => .rmDat32 w
  | .wordHost _ => .rmDat32 0
  | .chunk _ k => .serXfer (List.replicate (2 * k) 0)

/-- Every event marked completed. -/
def allOk (es : List Event) : List Entry := es.map fun e => ⟨e, true⟩

/-- The trace so far is legal, and the observer stands where the sequencer stands. -/
def State.TraceLegal (s : State) : Prop :=
  match s.seq with
  | .idle => Mon.run s.cfg.cmdBulkWrite Mon.start s.out = some Mon.start
  | .busy op k =>
    ∃ m, Mon.run s.cfg.cmdBulkWrite Mon.start s.out = some m ∧
      Mon.run s.cfg.cmdBulkWrite Mon.start (allOk (((expand s op).take k).map Act.shape)) = some m

/-! ### The two levels of R10 -/

/-- `n` steps of the sequencer. -/
def seqIter : Nat → State → Host.Outcome State Fault Refusal
  | 0, s => .next s
  | n + 1, s =>
    match seqStep s with
    | .next t => seqIter n t
    | .fault r => .fault r
    | .refused r => .refused r

/-! ### Conditions the statements name -/

/-- A blit-capable request is accepted here (R303). -/
def State.Ready (s : State) : Prop := s.seq = .idle ∧ s.devValid = true ∧ s.initState = .displayOn

/-- The instruction is the blit of region `c` from `fb`: SYNC with the full extent, or SYNCR (R240, R241). -/
def IsBlit (cfg : Config) (i : Instr) (fb : Nat) (c : Clip) : Prop :=
  (i = .sync fb ∧ c = { x1 := 0, x2 := cfg.panelW, y1 := 0, y2 := cfg.panelH }) ∨
    i = .syncr fb c.x1 c.x2 c.y1 c.y2

/-- The invariant of R26 as the spec writes it. -/
def ClipInv (cfg : Config) (c : Clip) : Prop :=
  c.x1.toNat < c.x2.toNat ∧ c.x2.toNat ≤ cfg.panelW.toNat ∧
    c.y1.toNat < c.y2.toNat ∧ c.y2.toNat ≤ cfg.panelH.toNat

/-- The operation an accepted request puts in `SEQ` (R23); REMOVE carries the validity bits it finds (log entry 12). -/
def State.opOf (s : State) : Instr → Op
  | .probe => .probe
  | .remove => .remove s.tbufValid s.linesValid
  | .cmd _ _ => .cmd
  | .sync _ => .sync
  | .syncr _ _ _ _ _ => .syncr
  | .fill _ _ _ _ _ => .fill

/-- The state with the operand latches an accepted request loads (R93, R180, R240, R241, R270). -/
def State.latched (s : State) : Instr → State
  | .probe => s
  | .remove => s
  | .cmd c p => { s with frame := { cmd := c, plen := p.length, param := p ++ s.frame.param.drop p.length } }
  | .sync fb => { s with fbptr := fb, clip := { x1 := 0, x2 := s.cfg.panelW, y1 := 0, y2 := s.cfg.panelH } }
  | .syncr fb x1 x2 y1 y2 => { s with fbptr := fb, clip := { x1 := x1, x2 := x2, y1 := y1, y2 := y2 } }
  | .fill color x1 x2 y1 y2 => { s with color := color, clip := { x1 := x1, x2 := x2, y1 := y1, y2 := y2 } }

/-- The environment answers `ok` to the next `n` fallible events and then goes on with `rest` (log entry 2). -/
def State.AnswersOk (s : State) (n : Nat) (rest : List Answer) : Prop :=
  s.answers = List.replicate n .ok ++ rest

/-- How many of the events are fallible under the configuration (R67). -/
def fallibleCount (cfg : Config) (es : List Event) : Nat := es.countP (fun e => e.fallible cfg.variant)

/-! ### The event lists the spec writes out -/

namespace Expect

/-- R100: the narrow register-mapped frame. -/
def rmFrame (c : Byte) (p : List Byte) : List Event :=
  .rmSel true :: .rmCmd8 c :: p.map .rmDat8 ++ [.rmSel false]

/-- R101: the wide register-mapped frame. -/
def rmWide (bulk : Byte) (ws : List Word) : List Event :=
  .rmSel true :: .rmCmd8 bulk :: ws.map .rmDat32 ++ [.rmSel false]

/-- R102: the serial frame. -/
def serFrame (c : Byte) (d : List Byte) : List Event :=
  if d = [] then [.serDc .command, .serXfer [c]]
  else .serDc .command :: .serXfer [c] :: .serDc .data :: d.map fun b => .serXfer [b]

/-- `F(c, p)` of R222. -/
def frame (v : Variant) (c : Byte) (p : List Byte) : List Event :=
  match v with
  | .rm => rmFrame c p
  | .ser => serFrame c p

/-- R104 and R195 for the columns. -/
def col (c : Clip) : List Byte := [hi c.x1, lo c.x1, hi (c.x2 - 1), lo (c.x2 - 1)]

/-- R104 and R195 for the rows. -/
def row (c : Clip) : List Byte := [hi c.y1, lo c.y1, hi (c.y2 - 1), lo (c.y2 - 1)]

/-- The seventeen commands of the initializer in the documented order (R222, R355). -/
def initCommands (cfg : Config) : List (Byte × List Byte) :=
  (cfg.cmdSoftReset, []) :: cfg.initTable.map (fun e => (e.cmd, e.params)) ++
    [(cfg.cmdSleepExit, []), (cfg.cmdDisplayOn, [])]

/-- R222 for either variant: the expansion of `init`. -/
def init (cfg : Config) : List Event :=
  let F := frame cfg.variant
  [.rst .asserted, .delay 10, .rst .released, .delay 120] ++
    (if cfg.variant = .ser then [.serClaim] else []) ++
    F cfg.cmdSoftReset [] ++ [.delay 240] ++
    cfg.initTable.flatMap (fun e => F e.cmd e.params) ++
    F cfg.cmdSleepExit [] ++ [.delay 120] ++
    F cfg.cmdDisplayOn [] ++
    (if cfg.variant = .ser then [.serRelease] else []) ++
    [.delay 50, .blOn]

/-- R285: PROBE's expansion. -/
def probe (cfg : Config) : List Event :=
  .resGet :: (if cfg.variant = .ser then [.resAlloc] else []) ++ init cfg

/-- R243 and R273: the two addressing frames and one wide frame of the given words. -/
def rmBlit (cfg : Config) (c : Clip) (ws : List Word) : List Event :=
  rmFrame cfg.cmdColAddr (col c) ++ rmFrame cfg.cmdRowAddr (row c) ++ rmWide cfg.cmdBulkWrite ws

/-- R245: everything before the first chunk. -/
def serBlitHead (cfg : Config) (c : Clip) : List Event :=
  .serClaim :: serFrame cfg.cmdColAddr (col c) ++ serFrame cfg.cmdRowAddr (row c) ++
    [.serDc .command, .serXfer [cfg.cmdBulkWrite], .serDc .data]

/-- The big-endian bytes of `k` pixels from index `i` on (R103, R247). -/
def pixelBytes (p : Nat → Half) (i k : Nat) : List Byte :=
  (List.range k).flatMap fun j => [hi (p (i + j)), lo (p (i + j))]

/-- `ceil(n/c)`. -/
def ceilDiv (n c : Nat) : Nat := (n + c - 1) / c

/-- R248: the chunks of `n` pixels through a buffer of `c` words. -/
def chunks (c n : Nat) (p : Nat → Half) : List (List Byte) :=
  (List.range (ceilDiv n c)).map fun m => pixelBytes p (m * c) (min c (n - m * c))

/-- R245: the whole serial blit. -/
def serBlit (cfg : Config) (c : Clip) (n : Nat) (p : Nat → Half) : List Event :=
  serBlitHead cfg c ++ (chunks cfg.capC n p).map .serXfer ++ [.serRelease]

/-- R247 over all chunks: the TransferBuffer after the blit, each chunk overwriting its first words only. -/
def tbufAfter (cfg : Config) (n : Nat) (p : Nat → Half) (tb : List Half) : List Half :=
  (List.range (ceilDiv n cfg.capC)).foldl
    (fun tb m =>
      (List.range (min cfg.capC (n - m * cfg.capC))).map
          (fun j => if cfg.hostLE then lo (p (m * cfg.capC + j)) ++ hi (p (m * cfg.capC + j))
                    else p (m * cfg.capC + j))
        ++ tb.drop (min cfg.capC (n - m * cfg.capC)))
    tb

/-- The delays of a list of events, in order. -/
def delays (es : List Event) : List Nat :=
  es.filterMap fun e =>
    match e with
    | .delay t => some t
    | _ => none

/-- The byte lists of the serial transactions of a list of events, in order. -/
def transfers (es : List Event) : List (List Byte) :=
  es.filterMap fun e =>
    match e with
    | .serXfer bs => some bs
    | _ => none

/-- The command bytes of a list of events, in order: the register-mapped command writes, and the
transactions that follow a mode-select drive to `command`. -/
def commandBytes : List Event → List Byte
  | [] => []
  | .rmCmd8 c :: r => c :: commandBytes r
  | .serDc .command :: .serXfer [c] :: r => c :: commandBytes r
  | _ :: r => commandBytes r

end Expect

end Sys2Proof.Machine
end

