-- ==== Sys2Proof/Certificates/Slice0/Obligations.lean ====
section
/-! DEFINITION. The statements for the provers, each named after what it states. Every one is about all
configurations that meet its hypotheses, never about the example configuration of `State.reset`. -/

open Sys2Proof Sys2Proof.Machine

/-! ### Descriptors -/

/-- R92, R93, R96: no bit of a descriptor is dropped. Decoding the encoding of a well-formed instruction gives
it back, under every configuration (an address of `ADDR_W` no multiple of 8: log entry 28). -/
def Obligations.DecodeEncodeRoundTrip : Prop :=
  ∀ (cfg : Config) (i : Instr), i.wf cfg = true → decode cfg (encode cfg i) = .ok i

/-- R92, R93, R97: a descriptor that is accepted is the encoding of a well-formed instruction, so each
instruction has one descriptor and nothing else decodes to it. -/
def Obligations.DecodedDescriptorIsTheEncoding : Prop :=
  ∀ (cfg : Config) (d : List Byte) (i : Instr), decode cfg d = .ok i → i.wf cfg = true ∧ encode cfg i = d

/-- R96: the length of an accepted descriptor, format by format; `ADDR_W/8` is the integer quotient (log entry 28). -/
def Obligations.DescriptorLengthByFormat : Prop :=
  ∀ (cfg : Config) (d : List Byte) (i : Instr), decode cfg d = .ok i →
    match i with
    | .probe => d.length = 1
    | .remove => d.length = 1
    | .cmd _ p => d.length = 3 + p.length ∧ (d[2]?).map BitVec.toNat = some p.length
    | .sync _ => d.length = 1 + cfg.addrW / 8
    | .syncr _ _ _ _ _ => d.length = 9 + cfg.addrW / 8
    | .fill _ _ _ _ _ => d.length = 11

/-- R95: a reserved operation code is rejected with `BadRequest`, no event, no other state changed. That the
step consumes the descriptor is the model's form of its input (log entry 1). -/
def Obligations.ReservedOpIsBadRequest : Prop :=
  ∀ (s : State) (op : Byte) (bs : List Byte) (rest : List (List Byte)),
    s.seq = .idle → s.reqs = (op :: bs) :: rest → (op = 0 ∨ 7 ≤ op.toNat) →
    step s = .next { s with reqs := rest, status := .badRequest }

/-- R97: a descriptor of the wrong length, or a CMD with `n > PARAM_MAX`, is rejected with `BadRequest` and no
event (an empty descriptor: log entry 23; `ADDR_W` no multiple of 8: log entry 28). That the step consumes
the descriptor is log entry 1. -/
def Obligations.MalformedDescriptorIsBadRequest : Prop :=
  ∀ (s : State) (d : List Byte) (rest : List (List Byte)),
    s.seq = .idle → s.reqs = d :: rest →
    (d = [] ∨
      (d.head? = some 1 ∧ d.length ≠ 1) ∨ (d.head? = some 2 ∧ d.length ≠ 1) ∨
      (d.head? = some 3 ∧ (d.length < 3 ∨ ∃ n, d[2]? = some n ∧ (d.length ≠ 3 + n.toNat ∨ s.cfg.paramMax < n.toNat))) ∨
      (d.head? = some 4 ∧ d.length ≠ 1 + s.cfg.addrW / 8) ∨
      (d.head? = some 5 ∧ d.length ≠ 9 + s.cfg.addrW / 8) ∨
      (d.head? = some 6 ∧ d.length ≠ 11)) →
    step s = .next { s with reqs := rest, status := .badRequest }

/-- 95_test_vectors.md L2.10: descriptors written out from R92 to R94, one per format (`ADDR_W` 32). The example
configuration is the model's choice (log entry 3). -/
def Obligations.SampleDescriptorsDecode : Prop :=
  decode Config.exampleRm [0x01] = .ok .probe ∧
  decode Config.exampleRm [0x02] = .ok .remove ∧
  decode Config.exampleRm [0x03, 0x2A, 0x04, 0x00, 0x00, 0x01, 0x3F] = .ok (.cmd 0x2A [0x00, 0x00, 0x01, 0x3F]) ∧
  decode Config.exampleRm [0x04, 0x10, 0x00, 0x00, 0x00] = .ok (.sync 0x10000000) ∧
  decode Config.exampleRm [0x05, 0x10, 0x00, 0x00, 0x00, 0x00, 0x04, 0x00, 0x06, 0x00, 0x08, 0x00, 0x0A] =
    .ok (.syncr 0x10000000 4 6 8 10) ∧
  decode Config.exampleRm [0x06, 0xF8, 0x00, 0x00, 0x00, 0x00, 0x0A, 0x00, 0x00, 0x00, 0x0A] =
    .ok (.fill 0xF800 0 10 0 10)

/-! ### The step and the sequencer -/

/-- What a step is (R23, R24, R90, R340; the model's form of the request input is log entry 1): idle with a
descriptor presented that decodes to `i`, `exec i` with the descriptor consumed; idle with none, it waits;
in flight, one step of the sequencer. That nothing changes while no descriptor is presented is log entry 22. -/
def Obligations.StepRunsTheDecodedInstruction : Prop :=
  (∀ (s : State) (d : List Byte) (rest : List (List Byte)) (i : Instr),
    s.seq = .idle → s.reqs = d :: rest → decode s.cfg d = .ok i → step s = exec i { s with reqs := rest }) ∧
  (∀ s : State, s.seq = .idle → s.reqs = [] → step s = .next s) ∧
  (∀ (s : State) (op : Op) (k : Nat), s.seq = .busy op k → step s = seqStep s)

/-- R24: with `SEQ = (op, k)`, the operation completes with `OK` when `k = len(E)`; otherwise `E[k]` is
attempted, `e` being its event and `s1` the state its entry makes ready for it. Not answered (log entries
2, 14, 19), nothing changes; on `ok` the state is the one the event and then its entry write, with `SEQ`
advanced by exactly one; on `fail` it is recorded as failed, only the abort's own events follow, and
`SEQ` is idle (`AbortEffects` gives that state in full). -/
def Obligations.SequencerStepEmitsOneEvent : Prop :=
  ∀ (s t : State) (op : Op) (k : Nat), s.seq = .busy op k → step s = .next t →
    (k = (expand s op).length → t.seq = .idle ∧ t.status = .ok ∧ t.out = s.out) ∧
    (k < (expand s op).length → ∃ (a : Act) (s1 : State) (e : Event),
      (expand s op)[k]? = some a ∧ a.prep s = some (s1, e) ∧
      ((e.fallible s.cfg.variant = true ∧ s.answers = [] ∧ t = s) ∨
      (∃ rest : List Answer,
        s.answers = (if e.fallible s.cfg.variant then .ok :: rest else rest) ∧
        t = { a.post (State.perform { s1 with answers := rest } e) with seq := .busy op (k + 1) } ∧
        t.out = s.out ++ [⟨e, true⟩]) ∨
      (∃ (x : Answer) (rest : List Answer) (tail : List Entry),
        e.fallible s.cfg.variant = true ∧ s.answers = x :: rest ∧ x ≠ .ok ∧
        t.seq = .idle ∧ t.status ≠ .ok ∧ t.answers = rest ∧ t.out = s.out ++ ⟨e, false⟩ :: tail ∧
        ∀ y ∈ tail, y.ok = true ∧ (y.ev = .serRelease ∨ y.ev = .resFree ∨ y.ev = .resPut))))

/-- R359 and U10: a fallible event the environment has not answered leaves the machine where it is; there is
no timeout and no error. The model's choices here: that no answer is the empty list (log entry 2), that
only fallible events wait (log entry 14), and that the rest of the state, OUT and TBUF included, stays too
(log entry 19). -/
def Obligations.UnansweredEventHangs : Prop :=
  ∀ (s s1 : State) (op : Op) (k : Nat) (a : Act) (e : Event),
    s.seq = .busy op k → (expand s op)[k]? = some a → a.prep s = some (s1, e) →
    e.fallible s.cfg.variant = true → s.answers = [] → step s = .next s

/-- R358 and U8: a request while an operation is in flight has no step, and a step in flight takes no
descriptor. The fault's name is the model's (log entry 15); the pending descriptors are its form of the
input (log entry 1). -/
def Obligations.OneRequestAtATime : Prop :=
  ∀ (s : State) (op : Op) (k : Nat), s.seq = .busy op k →
    (∀ i : Instr, exec i s = .fault .requestWhileBusy) ∧
    (∀ t : State, step s = .next t → t.reqs = s.reqs)

/-- R10: the two levels agree. Running an operation is accepting it (`SEQ` holds the operation of the
instruction at event 0, the latches hold its operands), then steps of the sequencer, one event each; it ends
idle or stands at an event of that same operation. Otherwise it is a rejection that changes `STATUS` alone.
That the machine's step runs the whole operation is the model's choice (log entry 4). That REMOVE's list is
fixed at acceptance is log entry 12; that the FRAME.PARAM entries from n on keep what they held, and that
only CMD loads FRAME, is log entry 17. -/
def Obligations.ExecIsTheSequencerIterated : Prop :=
  ∀ (i : Instr) (s t : State), exec i s = .next t →
    (t = { s with status := t.status } ∧ (t.status = .notReady ∨ t.status = .badRequest ∨ t.status = .unsupported)) ∨
    ∃ n : Nat,
      n ≤ (expand (s.latched i) (s.opOf i)).length + 1 ∧
      seqIter n { s.latched i with seq := .busy (s.opOf i) 0 } = .next t ∧
      (t.seq = .idle ∨ ∃ k, k < (expand (s.latched i) (s.opOf i)).length ∧ t.seq = .busy (s.opOf i) k)

/-- R24, R359: an operation ends, or it stands at an event the environment has not answered. The model's
choices: that exec runs an operation as far as it is answered (log entry 4), that no answer is the empty
list (log entry 2), that only fallible events wait (log entry 14), and that the whole state, OUT and TBUF
included, stays while one waits (log entry 19). -/
def Obligations.OperationEndsOrAwaitsAnAnswer : Prop :=
  ∀ (i : Instr) (s t : State), exec i s = .next t →
    t.seq = .idle ∨ (t.answers = [] ∧ step t = .next t)

/-! ### Reset and invariants -/

/-- R41: what reset leaves, for every configuration (the values the spec gives; the latches R41 calls
unspecified are not mentioned). -/
def Obligations.ResetLeavesTheTableOfR41 : Prop :=
  ∀ cfg : Config,
    let s := State.resetWith cfg
    s.devValid = false ∧ s.initState = .unreset ∧ s.seq = .idle ∧ s.tbufValid = false ∧ s.busHeld = false ∧
    s.linesValid = false ∧ s.blOn = false ∧ s.mode = .unknown ∧ s.select = .unknown ∧ s.rst = .unknown ∧
    s.status = .ok ∧ s.status.code = 0 ∧ s.out = []

/-- Reset meets the invariant and has a legal trace, under every well-formed configuration, the model's own
example among them. State.reset's configuration is log entry 3; the invariant's clause that an absent buffer
is the empty list is log entry 7, and the form of host memory is log entry 8. -/
def Obligations.ResetMeetsTheInvariant : Prop :=
  (∀ cfg : Config, cfg.wf = true → (State.resetWith cfg).Inv ∧ (State.resetWith cfg).TraceLegal) ∧
  State.reset.Inv

/-- R42, extended to operations in flight: every step keeps the invariant, from every state that meets it. The
invariant's clause that an absent buffer is the empty list is log entry 7, and the form of host memory is
log entry 8. -/
def Obligations.StepKeepsTheInvariant : Prop :=
  ∀ s t : State, s.Inv → step s = .next t → t.Inv

/-- R107 (a) to (f), with the brackets of R131 and R161: no step ever emits a forbidden sequence. -/
def Obligations.StepKeepsTheTraceLegal : Prop :=
  ∀ s t : State, s.Inv → s.TraceLegal → step s = .next t → t.TraceLegal

/-- R42 (a) to (f), clause by clause, whenever a step ends idle. -/
def Obligations.IdleStateMeetsR42 : Prop :=
  ∀ s t : State, s.Inv → step s = .next t → t.seq = .idle →
    t.busHeld = false ∧ t.select ≠ .written true ∧
    (t.devValid = true → t.initState = .displayOn ∧ t.blOn = true) ∧
    (t.devValid = false → t.initState = .unreset ∧ t.tbufValid = false ∧ t.linesValid = false ∧ t.blOn = false) ∧
    (t.cfg.variant = .ser → t.devValid = true → t.tbufValid = true ∧ t.linesValid = true) ∧
    (t.cfg.variant = .rm → t.tbufValid = false ∧ t.linesValid = false)

/-- R211: one sequencer step leaves `INIT_STATE`, advances it to the next of the six, or returns it to
`Unreset`; it never skips one, and it returns only where a PROBE aborts (R288) or a REMOVE ends (R290). -/
def Obligations.InitStateAdvancesLinearly : Prop :=
  ∀ (s t : State) (op : Op) (k : Nat), s.Inv → s.seq = .busy op k → step s = .next t →
    t.initState = s.initState ∨
    (op = .probe ∧ t.initState.code.toNat = s.initState.code.toNat + 1) ∨
    (t.initState = .unreset ∧ t.seq = .idle ∧
      ((op = .probe ∧ t.status ≠ .ok) ∨ ∃ free put, op = .remove free put))

/-- R9, R6, R20, R36: no step writes host memory (R9) or the configuration (R6, R20), and the trace only grows
(R36). That descriptors and answers are lists, taken only from the front and at most one descriptor a
step, is the model's form of its inputs (log entries 1 and 2). -/
def Obligations.StepOnlyReadsItsInputs : Prop :=
  ∀ s t : State, step s = .next t →
    t.mem = s.mem ∧ t.cfg = s.cfg ∧ (∀ a, t.memByte a = s.memByte a) ∧
    (∃ ext, t.out = s.out ++ ext) ∧ (∃ used, s.answers = used ++ t.answers) ∧
    (t.reqs = s.reqs ∨ ∃ d, s.reqs = d :: t.reqs)

/-! ### Rejections -/

/-- R303, step 2 (and R356): requests in the wrong state get `NotReady`; nothing but `STATUS` changes. -/
def Obligations.WrongStateIsNotReady : Prop :=
  ∀ s : State, s.seq = .idle →
    (s.devValid = true → exec .probe s = .next { s with status := .notReady }) ∧
    (s.devValid = false → ∀ c p, p.length ≤ s.cfg.paramMax →
      exec (.cmd c p) s = .next { s with status := .notReady }) ∧
    (¬ (s.devValid = true ∧ s.initState = .displayOn) →
      (∀ fb, exec (.sync fb) s = .next { s with status := .notReady }) ∧
      (∀ fb x1 x2 y1 y2, exec (.syncr fb x1 x2 y1 y2) s = .next { s with status := .notReady }) ∧
      (∀ color x1 x2 y1 y2, exec (.fill color x1 x2 y1 y2) s = .next { s with status := .notReady }))

/-- R303, step 3, and R270: FILL on a ready serial device is `Unsupported`, no event. -/
def Obligations.SerialFillIsUnsupported : Prop :=
  ∀ (s : State) (color x1 x2 y1 y2 : Half), s.Ready → s.cfg.variant = .ser →
    exec (.fill color x1 x2 y1 y2) s = .next { s with status := .unsupported }

/-- R180, R184, R303 step 1: more than `PARAM_MAX` parameters are `BadRequest`, before the state check. -/
def Obligations.TooManyParametersIsBadRequest : Prop :=
  ∀ (s : State) (c : Byte) (p : List Byte), s.seq = .idle → s.cfg.paramMax < p.length →
    exec (.cmd c p) s = .next { s with status := .badRequest }

/-- U3, R241, R270: a clip rectangle that breaks the invariant of R26 has no meaning. That it is refused at
acceptance, before the other preconditions, is log entry 9. -/
def Obligations.BadClipIsRefused : Prop :=
  ∀ (s : State) (c : Clip), s.Ready → ¬ ClipInv s.cfg c →
    (∀ fb, exec (.syncr fb c.x1 c.x2 c.y1 c.y2) s = .refused .clipInvariant) ∧
    (s.cfg.variant = .rm → ∀ color, exec (.fill color c.x1 c.x2 c.y1 c.y2) s = .refused .clipInvariant)

/-- U4, R243, R274, R133: a register-mapped bulk payload that is no multiple of 4 bytes has no meaning, in
SYNC, SYNCR, FILL and bulk CMD alike (D21). That it is refused at acceptance, before alignment and
readability are looked at, is log entry 9. -/
def Obligations.OddBulkLengthIsRefused : Prop :=
  ∀ s : State, s.Ready → s.cfg.variant = .rm →
    (∀ (i : Instr) (fb : Nat) (c : Clip), IsBlit s.cfg i fb c → ClipInv s.cfg c → pixelCount c % 2 = 1 →
      exec i s = .refused .bulkLength) ∧
    (∀ (color : Half) (c : Clip), ClipInv s.cfg c → pixelCount c % 2 = 1 →
      exec (.fill color c.x1 c.x2 c.y1 c.y2) s = .refused .bulkLength) ∧
    (∀ p : List Byte, p.length ≤ s.cfg.paramMax → p.length % 4 ≠ 0 →
      exec (.cmd s.cfg.cmdBulkWrite p) s = .refused .bulkLength)

/-- U7, R74, R76: a misaligned source address, or a source buffer with a byte that is not readable, has no
meaning. The model's own: that both are refused at acceptance, before any event and whatever the
environment would answer, and misaligned before unreadable (log entry 9); that a byte is not readable
where host memory lists no value for it (log entry 8) or it lies beyond the address space (log entry 21). -/
def Obligations.BadSourceBufferIsRefused : Prop :=
  ∀ (s : State) (i : Instr) (fb : Nat) (c : Clip), s.Ready → IsBlit s.cfg i fb c → ClipInv s.cfg c →
    (s.cfg.variant = .rm → pixelCount c % 2 = 0) →
    (fb % (if s.cfg.variant = .rm then 4 else 2) ≠ 0 → exec i s = .refused .sourceMisaligned) ∧
    (fb % (if s.cfg.variant = .rm then 4 else 2) = 0 →
      (∃ j, j < 2 * pixelCount c ∧ s.memByte (fb + j) = none) → exec i s = .refused .sourceUnreadable)

/-! ### PROBE and REMOVE -/

/-- R285 and R222, register-mapped: with `RES.GET` and `BL(on)` answered `ok`, PROBE emits exactly the listed
events and leaves a ready device; nothing else changes. (`REMAIN` becomes 0 only where the configuration
makes one of the three parameterless initializer commands the bulk-write command.). The model's choices:
REMAIN as said is log entry 11, that PROBE leaves FRAME alone is log entry 17, that the operation runs in
one step and infallible events do not wait is log entries 4 and 14, and the answers' form is log entry 2. -/
def Obligations.ProbeCompletesRegisterMapped : Prop :=
  ∀ (s : State) (rest : List Answer), s.cfg.wf = true → s.cfg.variant = .rm → s.seq = .idle →
    s.devValid = false → s.AnswersOk 2 rest →
    exec .probe s = .next { s with
      devValid := true, initState := .displayOn, blOn := true,
      rst := .driven .released, select := .written false,
      remain := if s.cfg.cmdSoftReset = s.cfg.cmdBulkWrite ∨ s.cfg.cmdSleepExit = s.cfg.cmdBulkWrite ∨
        s.cfg.cmdDisplayOn = s.cfg.cmdBulkWrite then 0 else s.remain,
      answers := rest, status := .ok,
      out := s.out ++ allOk (Expect.probe s.cfg) }

/-- R285, R287 and R222, serial: PROBE also obtains the lines and a buffer of `C` words, whose contents the
statement leaves open, and brackets its commands in one claim (R217). The model's choices: the free contents
and the counter are log entry 6, that PROBE leaves FRAME alone is log entry 17, that the operation runs in
one step and infallible events do not wait is log entries 4 and 14, and the answers' form is log entry 2. -/
def Obligations.ProbeCompletesSerial : Prop :=
  ∀ (s : State) (rest : List Answer), s.cfg.wf = true → s.cfg.variant = .ser → s.seq = .idle →
    s.devValid = false → s.AnswersOk (fallibleCount s.cfg (Expect.probe s.cfg)) rest →
    ∃ tb : List Half, tb.length = s.cfg.capC ∧
      exec .probe s = .next { s with
        devValid := true, initState := .displayOn, blOn := true, linesValid := true,
        tbufValid := true, tbuf := tb, allocs := s.allocs + 1,
        rst := .driven .released, mode := .driven .command, busHeld := false,
        answers := rest, status := .ok,
        out := s.out ++ allOk (Expect.probe s.cfg) }

/-- R222, R355, R370, L1.5: in a PROBE that completes, the commands go out in the documented order, each once,
and the delays are the five figures in their order. -/
def Obligations.ProbeSendsTheDocumentedOrder : Prop :=
  ∀ s t : State, s.seq = .idle → s.devValid = false → exec .probe s = .next t →
    t.seq = .idle → t.status = .ok →
    ∃ es : List Event, t.out = s.out ++ allOk es ∧
      Expect.commandBytes es = (Expect.initCommands s.cfg).map (·.1) ∧
      (Expect.commandBytes es).length = 17 ∧
      Expect.delays es = [10, 120, 240, 120, 50]

/-- R288, R218, R306: a failed PROBE leaves no device: the state is the one before it, except `RST`, `MODE`,
`SELECT`, `STATUS` and the trace (and the model's inputs and free-value counter, and `REMAIN` in the
configurations `ProbeCompletesRegisterMapped` names). The model's choices: that the buffer is again the
empty list is log entry 7, the counter is log entry 6, REMAIN is log entry 11, and that PROBE leaves FRAME
alone is log entry 17. -/
def Obligations.FailedProbeLeavesNoDevice : Prop :=
  ∀ s t : State, s.Inv → s.seq = .idle → s.devValid = false → exec .probe s = .next t → t.seq = .idle →
    t.status ≠ .ok →
    t = { s with
      rst := t.rst, mode := t.mode, select := t.select, status := t.status, out := t.out,
      answers := t.answers, allocs := t.allocs, remain := t.remain } ∧
    (s.cfg.cmdSoftReset ≠ s.cfg.cmdBulkWrite → s.cfg.cmdSleepExit ≠ s.cfg.cmdBulkWrite →
      s.cfg.cmdDisplayOn ≠ s.cfg.cmdBulkWrite → t.remain = s.remain) ∧
    (t.status = .resourceUnavailable ∨ t.status = .unsupported ∨ t.status = .allocationFailure ∨
      t.status = .busError)

/-- R218, R288, R306, L2.8: a PROBE whose `j`-th event fails stops there. Its trace is the `j` events before it,
that event failed, the release if the bus is held, the free if the buffer was allocated, the release of the
lines if they were obtained; no device is left, and `STATUS` is the kind of the failed event (R301; an
answer `unsupported` to an event other than `RES.GET`: log entry 13). With `FailedProbeLeavesNoDevice`,
every failing PROBE, the one whose `BL(on)` fails after all seventeen commands among them. The answers' form
is log entry 2. -/
def Obligations.FailedProbeStopsAtTheFirstError : Prop :=
  ∀ (s : State) (j : Nat) (a : Answer) (e : Event) (rest : List Answer),
    s.Inv → s.seq = .idle → s.devValid = false →
    (Expect.probe s.cfg)[j]? = some e → e.fallible s.cfg.variant = true → a ≠ .ok →
    s.AnswersOk (fallibleCount s.cfg ((Expect.probe s.cfg).take j)) (a :: rest) →
    let before := (Expect.probe s.cfg).take j
    ∃ t, exec .probe s = .next t ∧ t.seq = .idle ∧ t.answers = rest ∧
      t.devValid = false ∧ t.initState = .unreset ∧ t.blOn = false ∧
      t.tbufValid = false ∧ t.linesValid = false ∧ t.busHeld = false ∧
      t.status = (match e with
        | .resGet => if a = .unsupported then .unsupported else .resourceUnavailable
        | .resAlloc => .allocationFailure
        | .blOn => .resourceUnavailable
        | _ => .busError) ∧
      t.out = s.out ++ allOk before ++ [⟨e, false⟩] ++ allOk (
        (if Event.serClaim ∈ before ∧ Event.serRelease ∉ before then [.serRelease] else []) ++
        (if Event.resAlloc ∈ before then [.resFree] else []) ++
        (if s.cfg.variant = .ser ∧ Event.resGet ∈ before then [.resPut] else []))

/-- R184, D4: PROBE under a configuration that breaks the constraints of R6, R184 and R219 has no meaning. That
PROBE is where it stops, by a refusal, is log entry 16. -/
def Obligations.IllFormedConfigIsRefused : Prop :=
  ∀ s : State, s.seq = .idle → s.devValid = false → s.cfg.wf = false → exec .probe s = .refused .illFormedConfig

/-- R290: REMOVE is accepted in every idle state, frees the buffer before the lines, each only if valid, and
sends nothing to the panel. The whole next state; that a freed buffer is the empty list is the model's
choice (log entry 7). -/
def Obligations.RemoveCompletes : Prop :=
  ∀ s : State, s.seq = .idle →
    exec .remove s = .next { s with
      devValid := false, initState := .unreset, blOn := false,
      tbufValid := false, tbuf := if s.tbufValid then [] else s.tbuf, linesValid := false, status := .ok,
      out := s.out ++ allOk ((if s.tbufValid then [.resFree] else []) ++ (if s.linesValid then [.resPut] else [])) }

/-- R290: "two REMOVEs in a row are the same as one". -/
def Obligations.RemoveTwiceIsRemoveOnce : Prop :=
  ∀ s t : State, s.seq = .idle → exec .remove s = .next t → exec .remove t = .next t

/-! ### CMD -/

/-- R180, R181, R131, R100: a CMD with a byte other than the bulk-write one, register-mapped; the whole next
state. The model's choices: that the FRAME.PARAM entries from n on keep what they held is log entry 17, and
that the operation runs in one step and register writes do not wait is log entries 4 and 14. -/
def Obligations.CmdCompletesNarrow : Prop :=
  ∀ (s : State) (c : Byte) (p : List Byte), s.cfg.variant = .rm → s.seq = .idle → s.devValid = true →
    p.length ≤ s.cfg.paramMax → c ≠ s.cfg.cmdBulkWrite →
    exec (.cmd c p) s = .next { s with
      frame := { cmd := c, plen := p.length, param := p ++ s.frame.param.drop p.length },
      select := .written false, status := .ok,
      out := s.out ++ allOk (Expect.rmFrame c p) }

/-- R132, R133 case (i), R101: a CMD with the bulk-write byte, register-mapped, its parameters sent four bytes
at a time in host order (R71); the whole next state. The model's choices: that the FRAME.PARAM entries from
n on keep what they held is log entry 17, REMAIN is log entry 11, and that the operation runs in one step
and register writes do not wait is log entries 4 and 14. -/
def Obligations.CmdCompletesWide : Prop :=
  ∀ (s : State) (p : List Byte), s.cfg.variant = .rm → s.seq = .idle → s.devValid = true →
    p.length ≤ s.cfg.paramMax → p.length % 4 = 0 →
    exec (.cmd s.cfg.cmdBulkWrite p) s = .next { s with
      frame := { cmd := s.cfg.cmdBulkWrite, plen := p.length, param := p ++ s.frame.param.drop p.length },
      select := .written false, remain := 0, status := .ok,
      out := s.out ++ allOk (Expect.rmWide s.cfg.cmdBulkWrite ((List.range (p.length / 4)).map fun j =>
        if s.cfg.hostLE then p.getD (4 * j + 3) 0 ++ p.getD (4 * j + 2) 0 ++ p.getD (4 * j + 1) 0 ++ p.getD (4 * j) 0
        else p.getD (4 * j) 0 ++ p.getD (4 * j + 1) 0 ++ p.getD (4 * j + 2) 0 ++ p.getD (4 * j + 3) 0)) }

/-- R150, R152, R102, R162: a CMD on a serial device is claim, frame, release, whatever its byte; the whole next
state. The model's choices: that the FRAME.PARAM entries from n on keep what they held is log entry 17, that
the operation runs in one step and the release does not wait is log entries 4 and 14, and the answers' form
is log entry 2. -/
def Obligations.CmdCompletesSerial : Prop :=
  ∀ (s : State) (c : Byte) (p : List Byte) (rest : List Answer), s.cfg.variant = .ser → s.seq = .idle →
    s.devValid = true → p.length ≤ s.cfg.paramMax →
    s.AnswersOk (1 + (Expect.serFrame c p).length) rest →
    exec (.cmd c p) s = .next { s with
      frame := { cmd := c, plen := p.length, param := p ++ s.frame.param.drop p.length },
      mode := .driven (if p = [] then .command else .data), busHeld := false, status := .ok, answers := rest,
      out := s.out ++ allOk (.serClaim :: Expect.serFrame c p ++ [.serRelease]) }

/-- R156, R160, R161, R306: a CMD on a serial device whose `j`-th event fails emits nothing after it but the
release, which it emits exactly when the claim had succeeded. That the answer `unsupported` is a plain
failure here is log entry 13, and the answers' form is log entry 2. -/
def Obligations.CmdFailureReleasesTheBus : Prop :=
  ∀ (s : State) (c : Byte) (p : List Byte) (j : Nat) (a : Answer) (e : Event) (rest : List Answer),
    s.cfg.variant = .ser → s.seq = .idle → s.devValid = true → s.busHeld = false → p.length ≤ s.cfg.paramMax →
    (Event.serClaim :: Expect.serFrame c p)[j]? = some e → a ≠ .ok → s.AnswersOk j (a :: rest) →
    ∃ t, exec (.cmd c p) s = .next t ∧ t.status = .busError ∧ t.seq = .idle ∧ t.busHeld = false ∧
      t.devValid = true ∧ t.initState = s.initState ∧
      t.out = s.out ++ allOk ((Event.serClaim :: Expect.serFrame c p).take j) ++ [⟨e, false⟩] ++
        (if j = 0 then [] else [⟨.serRelease, true⟩])

/-! ### SYNC and SYNCR -/

/-- R240 to R244: a register-mapped blit of `N` pixels (`N` even, buffer aligned and readable) sends both window
commands and `N/2` words read in ascending order in host order, and completes with `OK`; the whole next
state. `w j` is the 32-bit host-order word at `fb + 4 j`. The model's choices: that a blit leaves FRAME
alone is log entry 17, and that the operation runs in one step and register writes do not wait is log
entries 4 and 14. -/
def Obligations.BlitCompletesRegisterMapped : Prop :=
  ∀ (s : State) (i : Instr) (fb : Nat) (c : Clip) (w : Nat → Word),
    s.cfg.wf = true → s.cfg.variant = .rm → s.Ready → IsBlit s.cfg i fb c → ClipInv s.cfg c →
    pixelCount c % 2 = 0 → fb % 4 = 0 → (∀ j, j < pixelCount c / 2 → s.memWord (fb + 4 * j) = some (w j)) →
    exec i s = .next { s with
      fbptr := fb, clip := c, remain := 0, select := .written false, status := .ok,
      out := s.out ++ allOk (Expect.rmBlit s.cfg c ((List.range (pixelCount c / 2)).map w)) }

/-- R245 to R248: a serial blit of `N` pixels with every event answered `ok`; the whole next state, the
TransferBuffer included (R247). `p j` is the host-order pixel at `fb + 2 j`. The model's choices: that a
blit leaves FRAME alone is log entry 17, that the operation runs in one step and the release does not wait
is log entries 4 and 14, and the answers' form is log entry 2. -/
def Obligations.BlitCompletesSerial : Prop :=
  ∀ (s : State) (i : Instr) (fb : Nat) (c : Clip) (p : Nat → Half) (rest : List Answer),
    s.cfg.wf = true → s.cfg.variant = .ser → s.Ready → IsBlit s.cfg i fb c → ClipInv s.cfg c →
    fb % 2 = 0 → (∀ j, j < pixelCount c → s.memHalf (fb + 2 * j) = some (p j)) →
    s.AnswersOk (18 + Expect.ceilDiv (pixelCount c) s.cfg.capC) rest →
    exec i s = .next { s with
      fbptr := fb, clip := c, remain := 0, mode := .driven .data, busHeld := false, status := .ok, answers := rest,
      tbuf := Expect.tbufAfter s.cfg (pixelCount c) p s.tbuf,
      out := s.out ++ allOk (Expect.serBlit s.cfg c (pixelCount c) p) }

/-- R248, said of the machine's own trace, for odd and even `N` alike: with every event answered `ok` a serial blit
completes, and of every completed one: after the eleven one-byte transactions of the three command
frames (R102, R245) come exactly `ceil(N/C)` chunk transactions, all but the last of `C` pixels, the
last of `N mod C` (or `C`) and so none empty, and their bytes together are the big-endian encoding of the
`N` pixels in order. -/
def Obligations.SerialChunkingLaws : Prop :=
  ∀ (s : State) (i : Instr) (fb : Nat) (c : Clip) (p : Nat → Half),
    s.cfg.wf = true → s.cfg.variant = .ser → s.Ready → IsBlit s.cfg i fb c →
    (∀ j, j < pixelCount c → s.memHalf (fb + 2 * j) = some (p j)) →
    (∀ rest : List Answer, ClipInv s.cfg c → fb % 2 = 0 →
      s.AnswersOk (18 + Expect.ceilDiv (pixelCount c) s.cfg.capC) rest →
      ∃ t, exec i s = .next t ∧ t.seq = .idle ∧ t.status = .ok) ∧
    (∀ t : State, exec i s = .next t → t.seq = .idle → t.status = .ok →
      ∃ ext : List Event, t.out = s.out ++ allOk ext ∧
        (∀ b ∈ (Expect.transfers ext).take 11, b.length = 1) ∧
        let bs := (Expect.transfers ext).drop 11
        bs.length = (pixelCount c + s.cfg.capC - 1) / s.cfg.capC ∧
        (∀ m, m + 1 < bs.length → (bs[m]?).map List.length = some (2 * s.cfg.capC)) ∧
        (bs.getLast?).map List.length =
          some (2 * if pixelCount c % s.cfg.capC = 0 then s.cfg.capC else pixelCount c % s.cfg.capC) ∧
        bs.flatten = (List.range (pixelCount c)).flatMap fun j => [hi (p j), lo (p j)])

/-- R249, R160, R306, L1.8: a serial blit whose `j`-th event fails stops there, releases the bus unless it was
the claim that failed, reports `BusError`, and leaves the device usable. With `j = 0` no command byte is
sent. That the answer `unsupported` is a plain failure here is log entry 13, and the answers' form is log
entry 2. -/
def Obligations.BlitFailureStopsAtTheFirstError : Prop :=
  ∀ (s : State) (i : Instr) (fb : Nat) (c : Clip) (p : Nat → Half) (j : Nat) (a : Answer) (e : Event)
    (rest : List Answer),
    s.cfg.wf = true → s.cfg.variant = .ser → s.Ready → s.busHeld = false → IsBlit s.cfg i fb c →
    ClipInv s.cfg c → fb % 2 = 0 → (∀ j, j < pixelCount c → s.memHalf (fb + 2 * j) = some (p j)) →
    j < 18 + Expect.ceilDiv (pixelCount c) s.cfg.capC →
    (Expect.serBlit s.cfg c (pixelCount c) p)[j]? = some e → a ≠ .ok → s.AnswersOk j (a :: rest) →
    ∃ t, exec i s = .next t ∧ t.status = .busError ∧ t.seq = .idle ∧ t.busHeld = false ∧
      t.devValid = true ∧ t.initState = .displayOn ∧
      t.out = s.out ++ allOk ((Expect.serBlit s.cfg c (pixelCount c) p).take j) ++ [⟨e, false⟩] ++
        (if j = 0 then [] else [⟨.serRelease, true⟩])

/-- R98, R200, R241: SYNC is SYNCR with the full extent: they end in the same states, and stop on the same
refusals. Which refusal comes first where several apply is log entry 9. -/
def Obligations.SyncIsSyncrOfTheFullExtent : Prop :=
  ∀ (s : State) (fb : Nat), s.seq = .idle →
    (∀ t, t.seq = .idle →
      (exec (.sync fb) s = .next t ↔ exec (.syncr fb 0 s.cfg.panelW 0 s.cfg.panelH) s = .next t)) ∧
    (∀ r, exec (.sync fb) s = .refused r ↔ exec (.syncr fb 0 s.cfg.panelW 0 s.cfg.panelH) s = .refused r)

/-- R250: what CMD, SYNC, SYNCR and FILL emit is a function of the configuration, the descriptor, host memory
and the environment's answers, and reads nothing earlier operations left (`MODE`, `SELECT`, `TBUF`, the
latches, the last window). That both may stop at an unanswered event is log entries 2 and 4. -/
def Obligations.EmissionIgnoresStaleState : Prop :=
  ∀ (i : Instr) (s s' t t' : State), i ≠ .probe → i ≠ .remove →
    s.cfg = s'.cfg → s.mem = s'.mem → s.answers = s'.answers →
    s.devValid = s'.devValid → s.initState = s'.initState → s.busHeld = false → s'.busHeld = false →
    exec i s = .next t → exec i s' = .next t' →
    ∃ ext, t.out = s.out ++ ext ∧ t'.out = s'.out ++ ext ∧ t.seq = t'.seq ∧ t.answers = t'.answers ∧
      (t.seq = .idle → t.status = t'.status)

/-! ### FILL -/

/-- R270, R272, R273: FILL on a ready register-mapped device with `N` even; the whole next state. The word is
two pixels of the colour (R105). The model's choices: that FILL leaves FRAME alone is log entry 17, and that
the operation runs in one step and register writes do not wait is log entries 4 and 14. -/
def Obligations.FillCompletes : Prop :=
  ∀ (s : State) (color : Half) (c : Clip), s.cfg.wf = true → s.cfg.variant = .rm → s.Ready →
    ClipInv s.cfg c → pixelCount c % 2 = 0 →
    exec (.fill color c.x1 c.x2 c.y1 c.y2) s = .next { s with
      color := color, clip := c, remain := 0, select := .written false, status := .ok,
      out := s.out ++ allOk (Expect.rmBlit s.cfg c (List.replicate (pixelCount c / 2) (color ++ color))) }

/-- R273: FILL does what the register-mapped SYNCR does over a buffer in which every pixel is the colour; only
the latches that hold the operands differ. That each runs in one step and register writes do not wait is log
entries 4 and 14. -/
def Obligations.FillEqualsBlitOfConstantBuffer : Prop :=
  ∀ (s : State) (color : Half) (fb : Nat) (c : Clip), s.cfg.wf = true → s.cfg.variant = .rm → s.Ready →
    ClipInv s.cfg c → pixelCount c % 2 = 0 → fb % 4 = 0 →
    (∀ j, j < pixelCount c → s.memHalf (fb + 2 * j) = some color) →
    ∃ t, exec (.syncr fb c.x1 c.x2 c.y1 c.y2) s = .next t ∧
      exec (.fill color c.x1 c.x2 c.y1 c.y2) s = .next { t with color := color, fbptr := s.fbptr }

/-! ### Errors -/

/-- R67: which events can fail, over the whole alphabet. -/
def Obligations.FallibleEventsAreThoseOfR67 : Prop :=
  ∀ (v : Variant) (e : Event), e.fallible v = true ↔
    (e = .serClaim ∨ (∃ m, e = .serDc m) ∨ (∃ bs, e = .serXfer bs) ∨ (∃ l, e = .rst l ∧ v = .ser) ∨
      e = .blOn ∨ e = .resGet ∨ e = .resAlloc)

/-- R66, last column: the state each event writes when it completes, and nothing else but the trace entry of
R36. That a fresh buffer's words are free values is log entry 6, and that a freed one is the empty list is
log entry 7. -/
def Obligations.EventWritesTheStateOfR66 : Prop :=
  ∀ s : State,
    let rec' := fun e => s.out ++ [(⟨e, true⟩ : Entry)]
    (∀ v, s.perform (.rmSel v) = { s with select := .written v, out := rec' (.rmSel v) }) ∧
    (∀ b, s.perform (.rmCmd8 b) = { s with out := rec' (.rmCmd8 b) }) ∧
    (∀ b, s.perform (.rmDat8 b) = { s with out := rec' (.rmDat8 b) }) ∧
    (∀ w, s.perform (.rmDat32 w) = { s with out := rec' (.rmDat32 w) }) ∧
    s.perform .serClaim = { s with busHeld := true, out := rec' .serClaim } ∧
    s.perform .serRelease = { s with busHeld := false, out := rec' .serRelease } ∧
    (∀ m, s.perform (.serDc m) = { s with mode := .driven m, out := rec' (.serDc m) }) ∧
    (∀ bs, s.perform (.serXfer bs) = { s with out := rec' (.serXfer bs) }) ∧
    (∀ v, s.perform (.rst v) = { s with rst := .driven v, out := rec' (.rst v) }) ∧
    (∀ t, s.perform (.delay t) = { s with out := rec' (.delay t) }) ∧
    s.perform .blOn = { s with blOn := true, out := rec' .blOn } ∧
    s.perform .resGet =
      { s with linesValid := s.linesValid || decide (s.cfg.variant = .ser), out := rec' .resGet } ∧
    (∃ tb : List Half, tb.length = s.cfg.capC ∧
      s.perform .resAlloc = { s with tbufValid := true, tbuf := tb, allocs := s.allocs + 1, out := rec' .resAlloc }) ∧
    s.perform .resFree = { s with tbufValid := false, tbuf := [], out := rec' .resFree } ∧
    s.perform .resPut = { s with linesValid := false, out := rec' .resPut }

/-- R306: the abort, for any operation in flight whose next event is answered with a failure. The whole next
state: the failed event, the release if the bus is held, PROBE's half-built record destroyed (R288), the
status of the kind (R301), idle; everything else as the entry left it before its event. The model's choices:
that a freed buffer is the empty list (log entry 7), and that `unsupported` counts for `RES.GET` alone (log
entry 13). The TransferBuffer fill of a failed chunk is in the state left (log entry 19 for when it
appears). -/
def Obligations.AbortEffects : Prop :=
  ∀ (s s1 : State) (op : Op) (k : Nat) (act : Act) (e : Event) (a : Answer) (rest : List Answer),
    s.seq = .busy op k → (expand s op)[k]? = some act → act.prep s = some (s1, e) →
    e.fallible s.cfg.variant = true → s.answers = a :: rest → a ≠ .ok →
    step s = .next (
      let held := if s.busHeld then [(⟨.serRelease, true⟩ : Entry)] else []
      if op = .probe then
        { s1 with
          answers := rest, busHeld := false, devValid := false, initState := .unreset, blOn := false,
          tbufValid := false, tbuf := if s.tbufValid then [] else s1.tbuf, linesValid := false,
          status := (match e with
            | .resGet => if a = .unsupported then .unsupported else .resourceUnavailable
            | .resAlloc => .allocationFailure
            | .blOn => .resourceUnavailable
            | _ => .busError),
          seq := .idle,
          out := s.out ++ [⟨e, false⟩] ++ held ++ (if s.tbufValid then [⟨.resFree, true⟩] else []) ++
            (if s.linesValid then [⟨.resPut, true⟩] else []) }
      else
        { s1 with
          answers := rest, busHeld := false,
          status := (match e with
            | .resGet => if a = .unsupported then .unsupported else .resourceUnavailable
            | .resAlloc => .allocationFailure
            | .blOn => .resourceUnavailable
            | _ => .busError),
          seq := .idle,
          out := s.out ++ [⟨e, false⟩] ++ held })

/-- R134: on a register-mapped device a CMD, SYNC, SYNCR or FILL that is accepted completes with `OK`, whatever
the environment would answer. That register writes do not wait, and that their unrecoverable fault is
outside, is log entry 14. -/
def Obligations.RegisterMappedOperationsNeverFail : Prop :=
  ∀ (i : Instr) (s t : State), s.cfg.variant = .rm → i ≠ .probe → i ≠ .remove → exec i s = .next t →
    t.seq = .idle ∧ t.answers = s.answers ∧
      (t.status = .ok ∨ (t = { s with status := t.status } ∧ (t.status = .notReady ∨ t.status = .badRequest)))

/-! ### Frames: what an operation leaves unchanged whenever it gives a next state -/

/-- CMD changes only FRAME, `SELECT` (register-mapped) or `MODE` and `BUS_HELD` (serial), `REMAIN` (bulk-write
byte, register-mapped), `STATUS`, `SEQ`, the trace and the answers consumed. Every byte of host memory reads
as before. REMAIN is log entry 11. -/
def Obligations.CmdFrame : Prop :=
  ∀ (s t : State) (c : Byte) (p : List Byte), exec (.cmd c p) s = .next t →
    t = { s with
      frame := t.frame, select := t.select, mode := t.mode, busHeld := t.busHeld, remain := t.remain,
      status := t.status, seq := t.seq, out := t.out, answers := t.answers } ∧
    (∀ a, t.memByte a = s.memByte a) ∧
    (s.cfg.variant = .rm → t.mode = s.mode ∧ t.busHeld = s.busHeld ∧
      (c ≠ s.cfg.cmdBulkWrite → t.remain = s.remain)) ∧
    (s.cfg.variant = .ser → t.select = s.select ∧ t.remain = s.remain)

/-- SYNC and SYNCR change only FBPTR, CLIP, REMAIN, `SELECT` (register-mapped) or `MODE`, `BUS_HELD` and TBUF
(serial), `STATUS`, `SEQ`, the trace and the answers consumed. Every byte of host memory reads as before.
That a blit leaves FRAME alone is log entry 17. -/
def Obligations.BlitFrame : Prop :=
  ∀ (s t : State) (i : Instr) (fb : Nat) (c : Clip), IsBlit s.cfg i fb c → exec i s = .next t →
    t = { s with
      fbptr := t.fbptr, clip := t.clip, remain := t.remain, select := t.select, mode := t.mode,
      busHeld := t.busHeld, tbuf := t.tbuf,
      status := t.status, seq := t.seq, out := t.out, answers := t.answers } ∧
    (∀ a, t.memByte a = s.memByte a) ∧
    (s.cfg.variant = .rm → t.mode = s.mode ∧ t.busHeld = s.busHeld ∧ t.tbuf = s.tbuf) ∧
    (s.cfg.variant = .ser → t.select = s.select)

/-- FILL changes only COLOR, CLIP, REMAIN, `SELECT`, `STATUS`, `SEQ` and the trace. Every byte of host memory
reads as before. That FILL leaves FRAME alone is log entry 17. -/
def Obligations.FillFrame : Prop :=
  ∀ (s t : State) (color x1 x2 y1 y2 : Half), exec (.fill color x1 x2 y1 y2) s = .next t →
    t = { s with
      color := t.color, clip := t.clip, remain := t.remain, select := t.select,
      status := t.status, seq := t.seq, out := t.out } ∧
    (∀ a, t.memByte a = s.memByte a)

/-- PROBE and REMOVE leave FRAME, CLIP, FBPTR, COLOR, the configuration, host memory and the pending descriptors
alone; REMOVE also leaves `RST`, `MODE`, `SELECT`, `BUS_HELD`, `REMAIN` and the answers. That PROBE leaves
FRAME alone is log entry 17; the allocation counter is log entry 6; that REMAIN can change in a PROBE is log
entry 11. -/
def Obligations.LifecycleFrame : Prop :=
  (∀ s t : State, exec .probe s = .next t →
    t = { s with
      devValid := t.devValid, initState := t.initState, tbufValid := t.tbufValid, tbuf := t.tbuf,
      busHeld := t.busHeld, mode := t.mode, select := t.select, rst := t.rst, blOn := t.blOn,
      linesValid := t.linesValid, remain := t.remain, allocs := t.allocs,
      status := t.status, seq := t.seq, out := t.out, answers := t.answers } ∧
    (∀ a, t.memByte a = s.memByte a)) ∧
  (∀ s t : State, exec .remove s = .next t →
    t = { s with
      devValid := t.devValid, initState := t.initState, tbufValid := t.tbufValid, tbuf := t.tbuf, blOn := t.blOn,
      linesValid := t.linesValid, status := t.status, seq := t.seq, out := t.out } ∧
    (∀ a, t.memByte a = s.memByte a))

/-! ### Operands, memory reads and ports -/

/-- R197: for every valid clip rectangle the encoded end is exactly one less than the half-open boundary, and the
encoded start is the start. -/
def Obligations.ResolverEndIsOneLess : Prop :=
  ∀ (cfg : Config) (c : Clip), ClipInv cfg c →
    ∃ a0 a1 a2 a3 b0 b1 b2 b3 : Byte, resolveCol c = [a0, a1, a2, a3] ∧ resolveRow c = [b0, b1, b2, b3] ∧
      a0.toNat * 256 + a1.toNat = c.x1.toNat ∧ a2.toNat * 256 + a3.toNat = c.x2.toNat - 1 ∧
      b0.toNat * 256 + b1.toNat = c.y1.toNat ∧ b2.toNat * 256 + b3.toNat = c.y2.toNat - 1

/-- R198, R62, R362: the inclusive window that the two address blocks name holds exactly the `N` pixels the block
sends, and `N` is at least 1. -/
def Obligations.WindowHoldsThePayload : Prop :=
  ∀ (cfg : Config) (c : Clip), ClipInv cfg c →
    1 ≤ pixelCount c ∧
    pixelCount c =
      (beNat ((resolveCol c).drop 2) - beNat ((resolveCol c).take 2) + 1) *
        (beNat ((resolveRow c).drop 2) - beNat ((resolveRow c).take 2) + 1)

/-- R71 in pixels: the word at an address carries the pixel there and the pixel two bytes on, the first in bits
15:0 on a little-endian host and in bits 31:16 on a big-endian one. -/
def Obligations.HostWordPlacesTwoPixels : Prop :=
  ∀ (s : State) (a : Nat) (p q : Half), s.memHalf a = some p → s.memHalf (a + 2) = some q →
    ∃ w, s.memWord a = some w ∧
      (if s.cfg.hostLE then w.extractLsb' 0 16 = p ∧ w.extractLsb' 16 16 = q
       else w.extractLsb' 16 16 = p ∧ w.extractLsb' 0 16 = q)

/-- R247, R72 (b): whatever the host's byte order, a buffer word leaves as the high byte of its pixel, then the low
byte. -/
def Obligations.BufferWordLeavesBigEndian : Prop :=
  ∀ (le : Bool) (p : Half), wireBytes le (toWire le p) = [hi p, lo p]

/-- R38, R68, D36: the control register write of `RM.SEL(v)` puts `v` at `SELECT_BIT` and the same constant
everywhere else; command and data writes go to their registers with the widths of R68. The address sums and
the width of the control value are log entry 25. -/
def Obligations.RegisterWritesFollowR38 : Prop :=
  ∀ cfg : Config,
    (∀ v, ∃ x, (Event.rmSel v).access cfg = .ctrlWrite (cfg.base + cfg.offCtrl) x ∧
      x.testBit cfg.selectBit = v ∧ ∀ b, b ≠ cfg.selectBit → x.testBit b = cfg.ctrlOther.testBit b) ∧
    (∀ b, (Event.rmCmd8 b).access cfg = .write8 (cfg.base + cfg.offCmd) b) ∧
    (∀ b, (Event.rmDat8 b).access cfg = .write8 (cfg.base + cfg.offData) b) ∧
    (∀ w, (Event.rmDat32 w).access cfg = .write32 (cfg.base + cfg.offData) w)
end

