-- ==== Sys2Proof/Laws/Decode.lean ====
section
/-! SUPPORT. The small laws of the descriptor helpers: splitting and joining of big-endian fields, and
lengths. -/

namespace Sys2Proof

/-! ### Two-byte fields -/

@[simp] theorem halfBytes_length (v : Half) : (halfBytes v).length = 2 := rfl

theorem hi_toNat (v : Half) : (hi v).toNat = v.toNat / 256 := by
  have := v.isLt
  simp [hi, BitVec.extractLsb'_toNat, Nat.shiftRight_eq_div_pow]
  omega

theorem lo_toNat (v : Half) : (lo v).toNat = v.toNat % 256 := by
  simp [lo, BitVec.extractLsb'_toNat]

/-- The two bytes of a field say its value. -/
theorem hi_lo_toNat (v : Half) : (hi v).toNat * 256 + (lo v).toNat = v.toNat := by
  rw [hi_toNat, lo_toNat]
  omega

theorem halfBE_toNat (h l : Byte) : (halfBE h l).toNat = h.toNat * 256 + l.toNat := by
  show (h ++ l : BitVec (8 + 8)).toNat = _
  rw [BitVec.toNat_append, ← Nat.shiftLeft_add_eq_or_of_lt l.isLt, Nat.shiftLeft_eq]

@[simp] theorem halfBE_hi_lo (v : Half) : halfBE (hi v) (lo v) = v :=
  BitVec.eq_of_toNat_eq (by rw [halfBE_toNat, hi_lo_toNat])

@[simp] theorem hi_halfBE (h l : Byte) : hi (halfBE h l) = h :=
  BitVec.eq_of_toNat_eq (by rw [hi_toNat, halfBE_toNat]; have := l.isLt; omega)

@[simp] theorem lo_halfBE (h l : Byte) : lo (halfBE h l) = l :=
  BitVec.eq_of_toNat_eq (by rw [lo_toNat, halfBE_toNat]; have := l.isLt; omega)

/-! ### Fields of any length -/

@[simp] theorem beBytes_length (n v : Nat) : (beBytes n v).length = n := by
  induction n with
  | zero => rfl
  | succ n ih => simp [beBytes, ih]

@[simp] theorem leBytes_length (n w : Nat) : (leBytes n w).length = n := by
  induction n generalizing w with
  | zero => rfl
  | succ n ih => simp [leBytes, ih]

theorem beNat_acc (bs : List Byte) (acc : Nat) :
    bs.foldl (fun acc b => acc * 256 + b.toNat) acc = acc * 256 ^ bs.length + beNat bs := by
  induction bs generalizing acc with
  | nil => simp [beNat]
  | cons b r ih =>
    simp only [beNat, List.foldl_cons, List.length_cons]
    rw [ih, ih (0 * 256 + b.toNat)]
    ring

@[simp] theorem beNat_nil : beNat [] = 0 := rfl

theorem beNat_cons (b : Byte) (bs : List Byte) : beNat (b :: bs) = b.toNat * 256 ^ bs.length + beNat bs := by
  rw [beNat, List.foldl_cons, beNat_acc]
  simp

theorem beNat_lt (bs : List Byte) : beNat bs < 256 ^ bs.length := by
  induction bs with
  | nil => simp
  | cons b r ih =>
    rw [beNat_cons, List.length_cons, Nat.pow_succ]
    have hb : b.toNat ≤ 255 := by have := b.isLt; omega
    calc b.toNat * 256 ^ r.length + beNat r < b.toNat * 256 ^ r.length + 256 ^ r.length := by omega
      _ = (b.toNat + 1) * 256 ^ r.length := by ring
      _ ≤ 256 * 256 ^ r.length := Nat.mul_le_mul_right _ (by omega)
      _ = 256 ^ r.length * 256 := by ring

/-- Writing `n` bytes and reading them back gives the value modulo `256 ^ n`. -/
theorem beNat_beBytes (n v : Nat) : beNat (beBytes n v) = v % 256 ^ n := by
  induction n with
  | zero => simp [beBytes, Nat.mod_one]
  | succ n ih =>
    rw [beBytes, beNat_cons, ih, beBytes_length, Nat.pow_succ, Nat.mod_mul]
    simp
    ring

/-- Reading bytes and writing them back gives the bytes. -/
theorem beBytes_beNat (bs : List Byte) : beBytes bs.length (beNat bs) = bs := by
  have low : ∀ (n v : Nat), beBytes n v = beBytes n (v % 256 ^ n) := by
    intro n
    induction n with
    | zero => intro v; rfl
    | succ n ih =>
      intro v
      rw [beBytes, beBytes, ih v, ih (v % 256 ^ (n + 1)), Nat.mod_mod_of_dvd _ (Nat.pow_dvd_pow 256 (Nat.le_succ n))]
      congr 1
      rw [Nat.pow_succ, Nat.mod_mul_right_div_self]
      apply BitVec.eq_of_toNat_eq
      simp
  induction bs with
  | nil => rfl
  | cons b r ih =>
    have hlt := beNat_lt r
    have hpos : 0 < 256 ^ r.length := Nat.pow_pos (by omega)
    rw [List.length_cons, beBytes, beNat_cons]
    have h1 : (b.toNat * 256 ^ r.length + beNat r) / 256 ^ r.length = b.toNat := by
      rw [Nat.mul_comm, Nat.mul_add_div hpos, Nat.div_eq_of_lt hlt, Nat.add_zero]
    have h2 : (b.toNat * 256 ^ r.length + beNat r) % 256 ^ r.length = beNat r := by
      rw [Nat.mul_comm, Nat.mul_add_mod, Nat.mod_eq_of_lt hlt]
    rw [h1, low, h2, ih]
    simp

end Sys2Proof
end

