-- ==== Sys2Proof/Laws/Memory.lean ====
section
/-! SUPPORT. Host memory: stores keep the canonical form, a read after a store gives the stored byte and
leaves every other address alone, and what readability of a range gives the reads. -/

namespace Sys2Proof.Machine

open Sys2Proof

/-! ### The canonical form -/

theorem Memory.write_head_bound (m : Memory) (a b : Nat) (v : Byte) (hb : b < a) (h : ∀ x ∈ m, b < x.1) :
    ∀ x ∈ m.write a v, b < x.1 := by
  induction m with
  | nil => simp [Memory.write, hb]
  | cons c r ih =>
    obtain ⟨ca, cv⟩ := c
    simp only [List.mem_cons, forall_eq_or_imp] at h
    unfold Memory.write
    split
    · simpa [hb] using h
    · split
      · simpa [hb] using h.2
      · simpa [h.1] using ih h.2

/-- Every store keeps the canonical form. -/
theorem Memory.write_wf (m : Memory) (a : Nat) (v : Byte) (h : Memory.wf m) : Memory.wf (m.write a v) := by
  induction m with
  | nil => simp [Memory.write]
  | cons c r ih =>
    obtain ⟨ca, cv⟩ := c
    rw [Memory.wf, List.pairwise_cons] at h
    unfold Memory.write
    split
    · rename_i hlt
      refine List.pairwise_cons.2 ⟨?_, List.pairwise_cons.2 h⟩
      simp only [List.mem_cons, forall_eq_or_imp]
      exact ⟨hlt, fun x hx => Nat.lt_trans hlt (h.1 x hx)⟩
    · split
      · rename_i heq
        subst heq
        exact List.pairwise_cons.2 h
      · rename_i h1 h2
        exact List.pairwise_cons.2 ⟨Memory.write_head_bound r a ca v (by omega) h.1, ih h.2⟩

/-- The host's store keeps the canonical form of the state's memory. -/
theorem hostStore_keeps_wf (s : State) (a : Nat) (v : Byte) (h : Memory.wf s.mem) :
    Memory.wf (s.hostStore a v).mem := Memory.write_wf s.mem a v h

/-- Reset memory has the canonical form. -/
theorem reset_mem_wf (cfg : Config) : Memory.wf (State.resetWith cfg).mem := List.Pairwise.nil

/-! ### Read after write -/

theorem Memory.lookup_none_of_lt (m : Memory) (a : Nat) (h : ∀ x ∈ m, a < x.1) : m.lookup a = none := by
  induction m with
  | nil => rfl
  | cons c r ih =>
    obtain ⟨ca, cv⟩ := c
    simp only [List.mem_cons, forall_eq_or_imp] at h
    have hne : ca ≠ a := Nat.ne_of_gt h.1
    simp [Memory.lookup, hne, ih h.2]

/-- A read after a store to the same address gives the stored byte. -/
@[simp] theorem Memory.lookup_write_same (m : Memory) (a : Nat) (v : Byte) : (m.write a v).lookup a = some v := by
  induction m with
  | nil => simp [Memory.write, Memory.lookup]
  | cons c r ih =>
    obtain ⟨ca, cv⟩ := c
    unfold Memory.write
    split
    · simp [Memory.lookup]
    · split
      · simp [Memory.lookup]
      · rename_i h1 h2
        have hne : ca ≠ a := fun e => h2 e.symm
        simp [Memory.lookup, hne, ih]

/-- A store leaves every other address alone. -/
theorem Memory.lookup_write_other (m : Memory) (a b : Nat) (v : Byte) (h : b ≠ a) :
    (m.write a v).lookup b = m.lookup b := by
  induction m with
  | nil => simp [Memory.write, Memory.lookup, Ne.symm h]
  | cons c r ih =>
    obtain ⟨ca, cv⟩ := c
    unfold Memory.write
    split
    · simp [Memory.lookup, Ne.symm h]
    · split
      · rename_i h1 h2
        simp [Memory.lookup, Ne.symm h, ← h2]
      · simp [Memory.lookup, ih]

/-! ### Reads depend on the configuration and the memory alone -/

theorem memByte_congr {s t : State} (hc : t.cfg = s.cfg) (hm : t.mem = s.mem) (a : Nat) :
    t.memByte a = s.memByte a := by simp [State.memByte, hc, hm]

theorem memHalf_congr {s t : State} (hc : t.cfg = s.cfg) (hm : t.mem = s.mem) (a : Nat) :
    t.memHalf a = s.memHalf a := by simp [State.memHalf, memByte_congr hc hm, hc]

theorem memWord_congr {s t : State} (hc : t.cfg = s.cfg) (hm : t.mem = s.mem) (a : Nat) :
    t.memWord a = s.memWord a := by simp [State.memWord, memByte_congr hc hm, hc]

theorem readable_congr {s t : State} (hc : t.cfg = s.cfg) (hm : t.mem = s.mem) (a n : Nat) :
    t.readable a n = s.readable a n := by simp [State.readable, memByte_congr hc hm]

/-! ### Readability -/

theorem readable_iff (s : State) (a n : Nat) :
    s.readable a n = true ↔ ∀ j, j < n → ∃ b, s.memByte (a + j) = some b := by
  simp [State.readable, Option.isSome_iff_exists]

theorem memHalf_isSome_iff (s : State) (a : Nat) :
    (∃ p, s.memHalf a = some p) ↔ (∃ b, s.memByte a = some b) ∧ ∃ b, s.memByte (a + 1) = some b := by
  unfold State.memHalf
  cases s.memByte a <;> cases s.memByte (a + 1) <;> simp

theorem memWord_isSome_iff (s : State) (a : Nat) :
    (∃ w, s.memWord a = some w) ↔ (∃ p, s.memHalf a = some p) ∧ ∃ q, s.memHalf (a + 2) = some q := by
  simp only [memHalf_isSome_iff, show a + 2 + 1 = a + 3 from rfl]
  unfold State.memWord
  cases s.memByte a <;> cases s.memByte (a + 1) <;> cases s.memByte (a + 2) <;> cases s.memByte (a + 3) <;> simp

/-- A range of `2 n` bytes is readable exactly when its `n` halves are. -/
theorem readable_halves_iff (s : State) (a n : Nat) :
    s.readable a (2 * n) = true ↔ ∀ j, j < n → ∃ p, s.memHalf (a + 2 * j) = some p := by
  rw [readable_iff]
  constructor
  · intro h j hj
    exact (memHalf_isSome_iff s _).2 ⟨h (2 * j) (by omega), by simpa [Nat.add_assoc] using h (2 * j + 1) (by omega)⟩
  · intro h j hj
    obtain ⟨h0, h1⟩ := (memHalf_isSome_iff s _).1 (h (j / 2) (by omega))
    rcases Nat.mod_two_eq_zero_or_one j with hm | hm
    · rwa [show a + 2 * (j / 2) = a + j by omega] at h0
    · rwa [show a + 2 * (j / 2) + 1 = a + j by omega] at h1

end Sys2Proof.Machine
end

