-- ==== Sys2Proof/Laws/State.lean ====
section
/-! SUPPORT. One lemma per field per update of the state, so that no later proof unfolds a record update. -/

namespace Sys2Proof.Machine

open Sys2Proof


/-! ### `State.record`: only `OUT` -/

@[simp] theorem record_out (s : State) (e : Event) (b : Bool) : (s.record e b).out = s.out ++ [⟨e, b⟩] := rfl
@[simp] theorem record_cfg (s : State) (e : Event) (b : Bool) : (s.record e b).cfg = s.cfg := rfl
@[simp] theorem record_devValid (s : State) (e : Event) (b : Bool) : (s.record e b).devValid = s.devValid := rfl
@[simp] theorem record_initState (s : State) (e : Event) (b : Bool) : (s.record e b).initState = s.initState := rfl
@[simp] theorem record_tbufValid (s : State) (e : Event) (b : Bool) : (s.record e b).tbufValid = s.tbufValid := rfl
@[simp] theorem record_tbuf (s : State) (e : Event) (b : Bool) : (s.record e b).tbuf = s.tbuf := rfl
@[simp] theorem record_busHeld (s : State) (e : Event) (b : Bool) : (s.record e b).busHeld = s.busHeld := rfl
@[simp] theorem record_mode (s : State) (e : Event) (b : Bool) : (s.record e b).mode = s.mode := rfl
@[simp] theorem record_select (s : State) (e : Event) (b : Bool) : (s.record e b).select = s.select := rfl
@[simp] theorem record_rst (s : State) (e : Event) (b : Bool) : (s.record e b).rst = s.rst := rfl
@[simp] theorem record_blOn (s : State) (e : Event) (b : Bool) : (s.record e b).blOn = s.blOn := rfl
@[simp] theorem record_linesValid (s : State) (e : Event) (b : Bool) : (s.record e b).linesValid = s.linesValid := rfl
@[simp] theorem record_seq (s : State) (e : Event) (b : Bool) : (s.record e b).seq = s.seq := rfl
@[simp] theorem record_frame (s : State) (e : Event) (b : Bool) : (s.record e b).frame = s.frame := rfl
@[simp] theorem record_clip (s : State) (e : Event) (b : Bool) : (s.record e b).clip = s.clip := rfl
@[simp] theorem record_fbptr (s : State) (e : Event) (b : Bool) : (s.record e b).fbptr = s.fbptr := rfl
@[simp] theorem record_color (s : State) (e : Event) (b : Bool) : (s.record e b).color = s.color := rfl
@[simp] theorem record_remain (s : State) (e : Event) (b : Bool) : (s.record e b).remain = s.remain := rfl
@[simp] theorem record_status (s : State) (e : Event) (b : Bool) : (s.record e b).status = s.status := rfl
@[simp] theorem record_mem (s : State) (e : Event) (b : Bool) : (s.record e b).mem = s.mem := rfl
@[simp] theorem record_reqs (s : State) (e : Event) (b : Bool) : (s.record e b).reqs = s.reqs := rfl
@[simp] theorem record_answers (s : State) (e : Event) (b : Bool) : (s.record e b).answers = s.answers := rfl
@[simp] theorem record_allocs (s : State) (e : Event) (b : Bool) : (s.record e b).allocs = s.allocs := rfl

/-! ### `State.reject`: only `STATUS` (R303) -/

@[simp] theorem reject_status (s : State) (k : Status) : (s.reject k).status = k := rfl
@[simp] theorem reject_cfg (s : State) (k : Status) : (s.reject k).cfg = s.cfg := rfl
@[simp] theorem reject_devValid (s : State) (k : Status) : (s.reject k).devValid = s.devValid := rfl
@[simp] theorem reject_initState (s : State) (k : Status) : (s.reject k).initState = s.initState := rfl
@[simp] theorem reject_tbufValid (s : State) (k : Status) : (s.reject k).tbufValid = s.tbufValid := rfl
@[simp] theorem reject_tbuf (s : State) (k : Status) : (s.reject k).tbuf = s.tbuf := rfl
@[simp] theorem reject_busHeld (s : State) (k : Status) : (s.reject k).busHeld = s.busHeld := rfl
@[simp] theorem reject_mode (s : State) (k : Status) : (s.reject k).mode = s.mode := rfl
@[simp] theorem reject_select (s : State) (k : Status) : (s.reject k).select = s.select := rfl
@[simp] theorem reject_rst (s : State) (k : Status) : (s.reject k).rst = s.rst := rfl
@[simp] theorem reject_blOn (s : State) (k : Status) : (s.reject k).blOn = s.blOn := rfl
@[simp] theorem reject_linesValid (s : State) (k : Status) : (s.reject k).linesValid = s.linesValid := rfl
@[simp] theorem reject_seq (s : State) (k : Status) : (s.reject k).seq = s.seq := rfl
@[simp] theorem reject_frame (s : State) (k : Status) : (s.reject k).frame = s.frame := rfl
@[simp] theorem reject_clip (s : State) (k : Status) : (s.reject k).clip = s.clip := rfl
@[simp] theorem reject_fbptr (s : State) (k : Status) : (s.reject k).fbptr = s.fbptr := rfl
@[simp] theorem reject_color (s : State) (k : Status) : (s.reject k).color = s.color := rfl
@[simp] theorem reject_remain (s : State) (k : Status) : (s.reject k).remain = s.remain := rfl
@[simp] theorem reject_out (s : State) (k : Status) : (s.reject k).out = s.out := rfl
@[simp] theorem reject_mem (s : State) (k : Status) : (s.reject k).mem = s.mem := rfl
@[simp] theorem reject_reqs (s : State) (k : Status) : (s.reject k).reqs = s.reqs := rfl
@[simp] theorem reject_answers (s : State) (k : Status) : (s.reject k).answers = s.answers := rfl
@[simp] theorem reject_allocs (s : State) (k : Status) : (s.reject k).allocs = s.allocs := rfl

/-! ### `State.hostStore`: only host memory -/

@[simp] theorem hostStore_mem (s : State) (a : Nat) (v : Byte) : (s.hostStore a v).mem = s.mem.write a v := rfl
@[simp] theorem hostStore_cfg (s : State) (a : Nat) (v : Byte) : (s.hostStore a v).cfg = s.cfg := rfl
@[simp] theorem hostStore_devValid (s : State) (a : Nat) (v : Byte) : (s.hostStore a v).devValid = s.devValid := rfl
@[simp] theorem hostStore_initState (s : State) (a : Nat) (v : Byte) : (s.hostStore a v).initState = s.initState := rfl
@[simp] theorem hostStore_tbufValid (s : State) (a : Nat) (v : Byte) : (s.hostStore a v).tbufValid = s.tbufValid := rfl
@[simp] theorem hostStore_tbuf (s : State) (a : Nat) (v : Byte) : (s.hostStore a v).tbuf = s.tbuf := rfl
@[simp] theorem hostStore_busHeld (s : State) (a : Nat) (v : Byte) : (s.hostStore a v).busHeld = s.busHeld := rfl
@[simp] theorem hostStore_mode (s : State) (a : Nat) (v : Byte) : (s.hostStore a v).mode = s.mode := rfl
@[simp] theorem hostStore_select (s : State) (a : Nat) (v : Byte) : (s.hostStore a v).select = s.select := rfl
@[simp] theorem hostStore_rst (s : State) (a : Nat) (v : Byte) : (s.hostStore a v).rst = s.rst := rfl
@[simp] theorem hostStore_blOn (s : State) (a : Nat) (v : Byte) : (s.hostStore a v).blOn = s.blOn := rfl
@[simp] theorem hostStore_linesValid (s : State) (a : Nat) (v : Byte) : (s.hostStore a v).linesValid = s.linesValid := rfl
@[simp] theorem hostStore_seq (s : State) (a : Nat) (v : Byte) : (s.hostStore a v).seq = s.seq := rfl
@[simp] theorem hostStore_frame (s : State) (a : Nat) (v : Byte) : (s.hostStore a v).frame = s.frame := rfl
@[simp] theorem hostStore_clip (s : State) (a : Nat) (v : Byte) : (s.hostStore a v).clip = s.clip := rfl
@[simp] theorem hostStore_fbptr (s : State) (a : Nat) (v : Byte) : (s.hostStore a v).fbptr = s.fbptr := rfl
@[simp] theorem hostStore_color (s : State) (a : Nat) (v : Byte) : (s.hostStore a v).color = s.color := rfl
@[simp] theorem hostStore_remain (s : State) (a : Nat) (v : Byte) : (s.hostStore a v).remain = s.remain := rfl
@[simp] theorem hostStore_status (s : State) (a : Nat) (v : Byte) : (s.hostStore a v).status = s.status := rfl
@[simp] theorem hostStore_out (s : State) (a : Nat) (v : Byte) : (s.hostStore a v).out = s.out := rfl
@[simp] theorem hostStore_reqs (s : State) (a : Nat) (v : Byte) : (s.hostStore a v).reqs = s.reqs := rfl
@[simp] theorem hostStore_answers (s : State) (a : Nat) (v : Byte) : (s.hostStore a v).answers = s.answers := rfl
@[simp] theorem hostStore_allocs (s : State) (a : Nat) (v : Byte) : (s.hostStore a v).allocs = s.allocs := rfl

/-! ### `State.advance`: only `SEQ`, by one (R24) -/

theorem advance_seq (s : State) (op : Op) (k : Nat) (h : s.seq = .busy op k) :
    s.advance.seq = .busy op (k + 1) := by simp [State.advance, h]

theorem advance_eq (s : State) (op : Op) (k : Nat) (h : s.seq = .busy op k) :
    s.advance = { s with seq := .busy op (k + 1) } := by simp [State.advance, h]

@[simp] theorem advance_cfg (s : State) : s.advance.cfg = s.cfg := by unfold State.advance; split <;> rfl
@[simp] theorem advance_devValid (s : State) : s.advance.devValid = s.devValid := by unfold State.advance; split <;> rfl
@[simp] theorem advance_initState (s : State) : s.advance.initState = s.initState := by unfold State.advance; split <;> rfl
@[simp] theorem advance_tbufValid (s : State) : s.advance.tbufValid = s.tbufValid := by unfold State.advance; split <;> rfl
@[simp] theorem advance_tbuf (s : State) : s.advance.tbuf = s.tbuf := by unfold State.advance; split <;> rfl
@[simp] theorem advance_busHeld (s : State) : s.advance.busHeld = s.busHeld := by unfold State.advance; split <;> rfl
@[simp] theorem advance_mode (s : State) : s.advance.mode = s.mode := by unfold State.advance; split <;> rfl
@[simp] theorem advance_select (s : State) : s.advance.select = s.select := by unfold State.advance; split <;> rfl
@[simp] theorem advance_rst (s : State) : s.advance.rst = s.rst := by unfold State.advance; split <;> rfl
@[simp] theorem advance_blOn (s : State) : s.advance.blOn = s.blOn := by unfold State.advance; split <;> rfl
@[simp] theorem advance_linesValid (s : State) : s.advance.linesValid = s.linesValid := by unfold State.advance; split <;> rfl
@[simp] theorem advance_frame (s : State) : s.advance.frame = s.frame := by unfold State.advance; split <;> rfl
@[simp] theorem advance_clip (s : State) : s.advance.clip = s.clip := by unfold State.advance; split <;> rfl
@[simp] theorem advance_fbptr (s : State) : s.advance.fbptr = s.fbptr := by unfold State.advance; split <;> rfl
@[simp] theorem advance_color (s : State) : s.advance.color = s.color := by unfold State.advance; split <;> rfl
@[simp] theorem advance_remain (s : State) : s.advance.remain = s.remain := by unfold State.advance; split <;> rfl
@[simp] theorem advance_status (s : State) : s.advance.status = s.status := by unfold State.advance; split <;> rfl
@[simp] theorem advance_out (s : State) : s.advance.out = s.out := by unfold State.advance; split <;> rfl
@[simp] theorem advance_mem (s : State) : s.advance.mem = s.mem := by unfold State.advance; split <;> rfl
@[simp] theorem advance_reqs (s : State) : s.advance.reqs = s.reqs := by unfold State.advance; split <;> rfl
@[simp] theorem advance_answers (s : State) : s.advance.answers = s.answers := by unfold State.advance; split <;> rfl
@[simp] theorem advance_allocs (s : State) : s.advance.allocs = s.allocs := by unfold State.advance; split <;> rfl

/-! ### `Event.apply`: what no event writes (last column of R66) -/

@[simp] theorem apply_cfg (e : Event) (s : State) : (e.apply s).cfg = s.cfg := by
  cases e <;> first | rfl | (simp only [Event.apply]; split <;> rfl)
@[simp] theorem apply_devValid (e : Event) (s : State) : (e.apply s).devValid = s.devValid := by
  cases e <;> first | rfl | (simp only [Event.apply]; split <;> rfl)
@[simp] theorem apply_initState (e : Event) (s : State) : (e.apply s).initState = s.initState := by
  cases e <;> first | rfl | (simp only [Event.apply]; split <;> rfl)
@[simp] theorem apply_seq (e : Event) (s : State) : (e.apply s).seq = s.seq := by
  cases e <;> first | rfl | (simp only [Event.apply]; split <;> rfl)
@[simp] theorem apply_frame (e : Event) (s : State) : (e.apply s).frame = s.frame := by
  cases e <;> first | rfl | (simp only [Event.apply]; split <;> rfl)
@[simp] theorem apply_clip (e : Event) (s : State) : (e.apply s).clip = s.clip := by
  cases e <;> first | rfl | (simp only [Event.apply]; split <;> rfl)
@[simp] theorem apply_fbptr (e : Event) (s : State) : (e.apply s).fbptr = s.fbptr := by
  cases e <;> first | rfl | (simp only [Event.apply]; split <;> rfl)
@[simp] theorem apply_color (e : Event) (s : State) : (e.apply s).color = s.color := by
  cases e <;> first | rfl | (simp only [Event.apply]; split <;> rfl)
@[simp] theorem apply_remain (e : Event) (s : State) : (e.apply s).remain = s.remain := by
  cases e <;> first | rfl | (simp only [Event.apply]; split <;> rfl)
@[simp] theorem apply_status (e : Event) (s : State) : (e.apply s).status = s.status := by
  cases e <;> first | rfl | (simp only [Event.apply]; split <;> rfl)
@[simp] theorem apply_out (e : Event) (s : State) : (e.apply s).out = s.out := by
  cases e <;> first | rfl | (simp only [Event.apply]; split <;> rfl)
@[simp] theorem apply_mem (e : Event) (s : State) : (e.apply s).mem = s.mem := by
  cases e <;> first | rfl | (simp only [Event.apply]; split <;> rfl)
@[simp] theorem apply_reqs (e : Event) (s : State) : (e.apply s).reqs = s.reqs := by
  cases e <;> first | rfl | (simp only [Event.apply]; split <;> rfl)
@[simp] theorem apply_answers (e : Event) (s : State) : (e.apply s).answers = s.answers := by
  cases e <;> first | rfl | (simp only [Event.apply]; split <;> rfl)

/-! ### `State.perform`: an event completes -/

@[simp] theorem perform_cfg (s : State) (e : Event) : (s.perform e).cfg = s.cfg := by simp [State.perform]
@[simp] theorem perform_devValid (s : State) (e : Event) : (s.perform e).devValid = s.devValid := by simp [State.perform]
@[simp] theorem perform_initState (s : State) (e : Event) : (s.perform e).initState = s.initState := by simp [State.perform]
@[simp] theorem perform_seq (s : State) (e : Event) : (s.perform e).seq = s.seq := by simp [State.perform]
@[simp] theorem perform_frame (s : State) (e : Event) : (s.perform e).frame = s.frame := by simp [State.perform]
@[simp] theorem perform_clip (s : State) (e : Event) : (s.perform e).clip = s.clip := by simp [State.perform]
@[simp] theorem perform_fbptr (s : State) (e : Event) : (s.perform e).fbptr = s.fbptr := by simp [State.perform]
@[simp] theorem perform_color (s : State) (e : Event) : (s.perform e).color = s.color := by simp [State.perform]
@[simp] theorem perform_remain (s : State) (e : Event) : (s.perform e).remain = s.remain := by simp [State.perform]
@[simp] theorem perform_status (s : State) (e : Event) : (s.perform e).status = s.status := by simp [State.perform]
@[simp] theorem perform_mem (s : State) (e : Event) : (s.perform e).mem = s.mem := by simp [State.perform]
@[simp] theorem perform_reqs (s : State) (e : Event) : (s.perform e).reqs = s.reqs := by simp [State.perform]
@[simp] theorem perform_answers (s : State) (e : Event) : (s.perform e).answers = s.answers := by simp [State.perform]
@[simp] theorem perform_out (s : State) (e : Event) : (s.perform e).out = s.out ++ [⟨e, true⟩] := by simp [State.perform]

/-! ### `Act.post`: what no entry writes after its event -/

@[simp] theorem post_cfg (a : Act) (s : State) : (a.post s).cfg = s.cfg := by cases a <;> rfl
@[simp] theorem post_devValid (a : Act) (s : State) : (a.post s).devValid = s.devValid := by cases a <;> rfl
@[simp] theorem post_tbufValid (a : Act) (s : State) : (a.post s).tbufValid = s.tbufValid := by cases a <;> rfl
@[simp] theorem post_tbuf (a : Act) (s : State) : (a.post s).tbuf = s.tbuf := by cases a <;> rfl
@[simp] theorem post_busHeld (a : Act) (s : State) : (a.post s).busHeld = s.busHeld := by cases a <;> rfl
@[simp] theorem post_mode (a : Act) (s : State) : (a.post s).mode = s.mode := by cases a <;> rfl
@[simp] theorem post_select (a : Act) (s : State) : (a.post s).select = s.select := by cases a <;> rfl
@[simp] theorem post_rst (a : Act) (s : State) : (a.post s).rst = s.rst := by cases a <;> rfl
@[simp] theorem post_blOn (a : Act) (s : State) : (a.post s).blOn = s.blOn := by cases a <;> rfl
@[simp] theorem post_linesValid (a : Act) (s : State) : (a.post s).linesValid = s.linesValid := by cases a <;> rfl
@[simp] theorem post_seq (a : Act) (s : State) : (a.post s).seq = s.seq := by cases a <;> rfl
@[simp] theorem post_frame (a : Act) (s : State) : (a.post s).frame = s.frame := by cases a <;> rfl
@[simp] theorem post_clip (a : Act) (s : State) : (a.post s).clip = s.clip := by cases a <;> rfl
@[simp] theorem post_fbptr (a : Act) (s : State) : (a.post s).fbptr = s.fbptr := by cases a <;> rfl
@[simp] theorem post_color (a : Act) (s : State) : (a.post s).color = s.color := by cases a <;> rfl
@[simp] theorem post_status (a : Act) (s : State) : (a.post s).status = s.status := by cases a <;> rfl
@[simp] theorem post_out (a : Act) (s : State) : (a.post s).out = s.out := by cases a <;> rfl
@[simp] theorem post_mem (a : Act) (s : State) : (a.post s).mem = s.mem := by cases a <;> rfl
@[simp] theorem post_reqs (a : Act) (s : State) : (a.post s).reqs = s.reqs := by cases a <;> rfl
@[simp] theorem post_answers (a : Act) (s : State) : (a.post s).answers = s.answers := by cases a <;> rfl
@[simp] theorem post_allocs (a : Act) (s : State) : (a.post s).allocs = s.allocs := by cases a <;> rfl

/-! ### `State.destroyRecord` and `State.releaseIfHeld` -/

@[simp] theorem releaseIfHeld_cfg (s : State) : s.releaseIfHeld.cfg = s.cfg := by unfold State.releaseIfHeld; split <;> simp
@[simp] theorem releaseIfHeld_seq (s : State) : s.releaseIfHeld.seq = s.seq := by unfold State.releaseIfHeld; split <;> simp
@[simp] theorem releaseIfHeld_frame (s : State) : s.releaseIfHeld.frame = s.frame := by unfold State.releaseIfHeld; split <;> simp
@[simp] theorem releaseIfHeld_clip (s : State) : s.releaseIfHeld.clip = s.clip := by unfold State.releaseIfHeld; split <;> simp
@[simp] theorem releaseIfHeld_fbptr (s : State) : s.releaseIfHeld.fbptr = s.fbptr := by unfold State.releaseIfHeld; split <;> simp
@[simp] theorem releaseIfHeld_color (s : State) : s.releaseIfHeld.color = s.color := by unfold State.releaseIfHeld; split <;> simp
@[simp] theorem releaseIfHeld_remain (s : State) : s.releaseIfHeld.remain = s.remain := by unfold State.releaseIfHeld; split <;> simp
@[simp] theorem releaseIfHeld_status (s : State) : s.releaseIfHeld.status = s.status := by unfold State.releaseIfHeld; split <;> simp
@[simp] theorem releaseIfHeld_mem (s : State) : s.releaseIfHeld.mem = s.mem := by unfold State.releaseIfHeld; split <;> simp
@[simp] theorem releaseIfHeld_reqs (s : State) : s.releaseIfHeld.reqs = s.reqs := by unfold State.releaseIfHeld; split <;> simp
@[simp] theorem releaseIfHeld_answers (s : State) : s.releaseIfHeld.answers = s.answers := by unfold State.releaseIfHeld; split <;> simp
@[simp] theorem releaseIfHeld_devValid (s : State) : s.releaseIfHeld.devValid = s.devValid := by unfold State.releaseIfHeld; split <;> rfl
@[simp] theorem releaseIfHeld_initState (s : State) : s.releaseIfHeld.initState = s.initState := by unfold State.releaseIfHeld; split <;> rfl
@[simp] theorem releaseIfHeld_tbufValid (s : State) : s.releaseIfHeld.tbufValid = s.tbufValid := by unfold State.releaseIfHeld; split <;> rfl
@[simp] theorem releaseIfHeld_tbuf (s : State) : s.releaseIfHeld.tbuf = s.tbuf := by unfold State.releaseIfHeld; split <;> rfl
@[simp] theorem releaseIfHeld_mode (s : State) : s.releaseIfHeld.mode = s.mode := by unfold State.releaseIfHeld; split <;> rfl
@[simp] theorem releaseIfHeld_select (s : State) : s.releaseIfHeld.select = s.select := by unfold State.releaseIfHeld; split <;> rfl
@[simp] theorem releaseIfHeld_rst (s : State) : s.releaseIfHeld.rst = s.rst := by unfold State.releaseIfHeld; split <;> rfl
@[simp] theorem releaseIfHeld_blOn (s : State) : s.releaseIfHeld.blOn = s.blOn := by unfold State.releaseIfHeld; split <;> rfl
@[simp] theorem releaseIfHeld_linesValid (s : State) : s.releaseIfHeld.linesValid = s.linesValid := by unfold State.releaseIfHeld; split <;> rfl
@[simp] theorem releaseIfHeld_allocs (s : State) : s.releaseIfHeld.allocs = s.allocs := by unfold State.releaseIfHeld; split <;> rfl
@[simp] theorem releaseIfHeld_busHeld (s : State) : s.releaseIfHeld.busHeld = false := by
  unfold State.releaseIfHeld
  split
  · rfl
  · simp_all

@[simp] theorem releaseIfHeld_out (s : State) :
    s.releaseIfHeld.out = s.out ++ if s.busHeld then [⟨.serRelease, true⟩] else [] := by
  unfold State.releaseIfHeld
  split <;> simp [*]

/-- Destroying the record, whole (R288): the buffer first, then the lines, each only if valid. -/
theorem destroyRecord_eq (s : State) :
    s.destroyRecord = { s with
      devValid := false, initState := .unreset, blOn := false, tbufValid := false,
      tbuf := if s.tbufValid then [] else s.tbuf, linesValid := false,
      out := s.out ++ (if s.tbufValid then [⟨.resFree, true⟩] else []) ++
        (if s.linesValid then [⟨.resPut, true⟩] else []) } := by
  obtain ⟨cfg, dv, ist, tv, tb, bh, md, se, rs, bl, lv, sq, fr, cl, fp, co, rm, st, ou, me, rq, an, al⟩ := s
  cases tv <;> cases lv <;> simp [State.destroyRecord, State.perform, State.record, Event.apply]

end Sys2Proof.Machine
end

