-- ==== Sys2Proof/Laws/Ops.lean ====
section
/-! SUPPORT. What the shared operations can do, said once: emitting an event, the abort, performing one
entry of an expansion. -/

namespace Sys2Proof.Machine

open Sys2Proof

/-! ### Emitting -/

theorem emit_infallible {e : Event} {s : State} (h : e.fallible s.cfg.variant = false) :
    emit e s = .done (s.perform e) := by simp [emit, h]

theorem emit_waiting {e : Event} {s : State} (h : e.fallible s.cfg.variant = true) (ha : s.answers = []) :
    emit e s = .waiting := by simp [emit, h, ha]

theorem emit_ok {e : Event} {s : State} {rest : List Answer} (h : e.fallible s.cfg.variant = true)
    (ha : s.answers = .ok :: rest) : emit e s = .done (State.perform { s with answers := rest } e) := by
  simp [emit, h, ha]

theorem emit_fail {e : Event} {s : State} {a : Answer} {rest : List Answer} (h : e.fallible s.cfg.variant = true)
    (ha : s.answers = a :: rest) (hne : a ≠ .ok) :
    emit e s = .failed (e.failStatus a) (State.record { s with answers := rest } e false) := by
  simp [emit, h, ha, hne]

/-- Everything emitting an event can give. -/
theorem emit_cases (e : Event) (s : State) :
    (e.fallible s.cfg.variant = false ∧ emit e s = .done (s.perform e)) ∨
    (e.fallible s.cfg.variant = true ∧ s.answers = [] ∧ emit e s = .waiting) ∨
    (e.fallible s.cfg.variant = true ∧ ∃ rest, s.answers = .ok :: rest ∧
      emit e s = .done (State.perform { s with answers := rest } e)) ∨
    (e.fallible s.cfg.variant = true ∧ ∃ a rest, s.answers = a :: rest ∧ a ≠ .ok ∧
      emit e s = .failed (e.failStatus a) (State.record { s with answers := rest } e false)) := by
  cases h : e.fallible s.cfg.variant with
  | false => exact .inl ⟨rfl, emit_infallible h⟩
  | true =>
    cases ha : s.answers with
    | nil => exact .inr (.inl ⟨rfl, rfl, emit_waiting h ha⟩)
    | cons a rest =>
      by_cases hok : a = .ok
      · subst hok
        exact .inr (.inr (.inl ⟨rfl, rest, rfl, emit_ok h ha⟩))
      · exact .inr (.inr (.inr ⟨rfl, a, rest, rfl, hok, emit_fail h ha hok⟩))

theorem failStatus_ne_ok (a : Answer) (e : Event) : e.failStatus a ≠ .ok := by
  cases e <;> simp [Event.failStatus]
  split <;> simp

/-! ### The abort (R306) -/

/-- The abort of an operation other than PROBE, whole. -/
theorem takeAbort_eq {op : Op} (h : op ≠ .probe) (k : Status) (s : State) :
    takeAbort op k s = { s.releaseIfHeld with status := k, seq := .idle } := by
  cases op <;> first | rfl | exact absurd rfl h

/-- The abort of PROBE, whole: the record is destroyed too (R288). -/
theorem takeAbort_probe (k : Status) (s : State) :
    takeAbort .probe k s = { s.releaseIfHeld.destroyRecord with status := k, seq := .idle } := rfl

@[simp] theorem takeAbort_status (op : Op) (k : Status) (s : State) : (takeAbort op k s).status = k := rfl
@[simp] theorem takeAbort_seq (op : Op) (k : Status) (s : State) : (takeAbort op k s).seq = .idle := rfl

@[simp] theorem takeAbort_busHeld (op : Op) (k : Status) (s : State) : (takeAbort op k s).busHeld = false := by
  cases op <;> simp [takeAbort, destroyRecord_eq]

/-- The abort appends only the release, and for PROBE the freeing events. -/
theorem takeAbort_out (op : Op) (k : Status) (s : State) :
    (takeAbort op k s).out = s.out ++ (if s.busHeld then [⟨.serRelease, true⟩] else []) ++
      (if op = .probe then
        (if s.tbufValid then [⟨.resFree, true⟩] else []) ++ (if s.linesValid then [⟨.resPut, true⟩] else [])
       else []) := by
  cases op <;> simp [takeAbort, destroyRecord_eq]

/-! ### What every part of an operation keeps -/

/-- The parts of the state an expansion depends on, and the inputs an operation never writes. -/
structure SameOperands (s t : State) : Prop where
  cfg : t.cfg = s.cfg
  frame : t.frame = s.frame
  clip : t.clip = s.clip
  fbptr : t.fbptr = s.fbptr
  color : t.color = s.color
  mem : t.mem = s.mem
  reqs : t.reqs = s.reqs

theorem SameOperands.rfl {s : State} : SameOperands s s := ⟨Eq.refl _, Eq.refl _, Eq.refl _, Eq.refl _, Eq.refl _, Eq.refl _, Eq.refl _⟩

theorem SameOperands.trans {s t u : State} (h : SameOperands s t) (g : SameOperands t u) : SameOperands s u :=
  ⟨g.cfg.trans h.cfg, g.frame.trans h.frame, g.clip.trans h.clip, g.fbptr.trans h.fbptr, g.color.trans h.color,
    g.mem.trans h.mem, g.reqs.trans h.reqs⟩

/-- The expansion of an operation in flight never changes. -/
theorem expand_congr {s t : State} (h : SameOperands s t) (op : Op) : expand t op = expand s op := by
  cases op <;> simp [expand, h.cfg, h.frame, h.clip, h.color]

theorem takeAbort_same (op : Op) (k : Status) (s : State) : SameOperands s (takeAbort op k s) := by
  constructor <;> cases op <;> simp [takeAbort, destroyRecord_eq]

theorem complete_same (op : Op) (s : State) : SameOperands s (complete op s) := by
  constructor <;> cases op <;> rfl

@[simp] theorem complete_status (op : Op) (s : State) : (complete op s).status = .ok := rfl
@[simp] theorem complete_seq (op : Op) (s : State) : (complete op s).seq = .idle := rfl
@[simp] theorem complete_out (op : Op) (s : State) : (complete op s).out = s.out := by cases op <;> rfl
@[simp] theorem complete_answers (op : Op) (s : State) : (complete op s).answers = s.answers := by cases op <;> rfl

/-! ### The source buffer -/

theorem pixelWords_length {s : State} {i k : Nat} {ws : List Half} (h : pixelWords s i k = some ws) :
    ws.length = k := by
  induction k generalizing i ws with
  | zero => simp [pixelWords] at h; simp [h]
  | succ k ih =>
    unfold pixelWords at h
    split at h
    · rename_i p r hp hr
      simp only [Option.some.injEq] at h
      simp [← h, ih hr]
    · simp at h

/-- The words of R247, one by one. -/
theorem pixelWords_eq {s : State} {i k : Nat} {p : Nat → Half}
    (h : ∀ j, j < k → s.memHalf (s.fbptr + 2 * (i + j)) = some (p (i + j))) :
    pixelWords s i k = some ((List.range k).map fun j => toWire s.cfg.hostLE (p (i + j))) := by
  induction k generalizing i with
  | zero => rfl
  | succ k ih =>
    have h0 := h 0 (by omega)
    have hr := ih (i := i + 1) (fun j hj => by
      have := h (j + 1) (by omega)
      rwa [show i + 1 + j = i + (j + 1) by omega])
    simp only [Nat.add_zero] at h0
    rw [pixelWords, h0, hr, List.range_succ_eq_map]
    simp [Function.comp_def, Nat.add_assoc, Nat.add_comm 1]

theorem pixelWords_congr {s t : State} (h : SameOperands s t) (i k : Nat) : pixelWords t i k = pixelWords s i k := by
  induction k generalizing i with
  | zero => rfl
  | succ k ih => simp [pixelWords, ih, memHalf_congr h.cfg h.mem, h.fbptr, h.cfg]

/-! ### One entry of an expansion -/

/-- Before its event an entry writes the TransferBuffer alone. -/
theorem prep_eq {a : Act} {s s1 : State} {e : Event} (h : a.prep s = some (s1, e)) :
    s1 = { s with tbuf := s1.tbuf } := by
  cases a <;> simp [Act.prep, fillTbuf] at h
  case chunk i k =>
    obtain ⟨ws, -, rfl, -⟩ := h
    rfl
  case wordHost j =>
    obtain ⟨w, -, rfl, -⟩ := h
    rfl
  all_goals
    obtain ⟨rfl, -⟩ := h
    rfl

/-- Everything performing an entry can give. -/
theorem performAct_cases (op : Op) (a : Act) (s : State) :
    (a.prep s = none ∧ performAct op a s = .refused .sourceUnreadable) ∨
    ∃ s1 e, a.prep s = some (s1, e) ∧
      ((e.fallible s.cfg.variant = true ∧ s.answers = [] ∧ performAct op a s = .waiting) ∨
       (e.fallible s.cfg.variant = true ∧ ∃ ans rest, s.answers = ans :: rest ∧ ans ≠ .ok ∧
          performAct op a s =
            .aborted (takeAbort op (e.failStatus ans) (State.record { s1 with answers := rest } e false))) ∨
       (e.fallible s.cfg.variant = false ∧ performAct op a s = .advanced (a.post (s1.perform e)).advance) ∨
       (e.fallible s.cfg.variant = true ∧ ∃ rest, s.answers = .ok :: rest ∧
          performAct op a s = .advanced (a.post (State.perform { s1 with answers := rest } e)).advance)) := by
  cases hp : a.prep s with
  | none => exact .inl ⟨rfl, by simp [performAct, hp]⟩
  | some se =>
    obtain ⟨s1, e⟩ := se
    have hs1 := prep_eq hp
    have hcfg : s1.cfg = s.cfg := by rw [hs1]
    have hans : s1.answers = s.answers := by rw [hs1]
    refine .inr ⟨s1, e, rfl, ?_⟩
    rcases emit_cases e s1 with ⟨hf, h⟩ | ⟨hf, ha, h⟩ | ⟨hf, rest, ha, h⟩ | ⟨hf, ans, rest, ha, hne, h⟩ <;>
      rw [hcfg] at hf
    · exact .inr (.inr (.inl ⟨hf, by simp [performAct, hp, h]⟩))
    · exact .inl ⟨hf, hans ▸ ha, by simp [performAct, hp, h]⟩
    · exact .inr (.inr (.inr ⟨hf, rest, hans ▸ ha, by simp [performAct, hp, h]⟩))
    · exact .inr (.inl ⟨hf, ans, rest, hans ▸ ha, hne, by simp [performAct, hp, h]⟩)

/-- An entry that completes keeps the operands, appends one completed event and advances `SEQ` by one. -/
theorem performAct_advanced {op : Op} {a : Act} {s t : State} (h : performAct op a s = .advanced t) :
    SameOperands s t ∧ (∃ s1 e, a.prep s = some (s1, e) ∧ t.out = s.out ++ [⟨e, true⟩]) ∧
      (∃ used, s.answers = used ++ t.answers) ∧ t.status = s.status ∧
      (∀ o k, s.seq = .busy o k → t.seq = .busy o (k + 1)) := by
  rcases performAct_cases op a s with ⟨-, h1⟩ | ⟨s1, e, hp, ⟨-, -, h1⟩ | ⟨-, x, r, -, -, h1⟩ | ⟨-, h1⟩ | ⟨-, r, ha, h1⟩⟩ <;>
    rw [h] at h1 <;> try (simp at h1; done)
  all_goals
    simp only [ActResult.advanced.injEq] at h1
    subst h1
    have hs1 := prep_eq hp
    refine ⟨⟨?_, ?_, ?_, ?_, ?_, ?_, ?_⟩, ⟨s1, e, hp, ?_⟩, ?_, ?_, fun o k hk => ?_⟩
  case _ => simp; rw [hs1]
  case _ => simp; rw [hs1]
  case _ => simp; rw [hs1]
  case _ => simp; rw [hs1]
  case _ => simp; rw [hs1]
  case _ => simp; rw [hs1]
  case _ => simp; rw [hs1]
  case _ => simp; rw [hs1]
  case _ => exact ⟨[], by simp; rw [hs1]⟩
  case _ => simp; rw [hs1]
  case _ => exact advance_seq _ o k (by simp; rw [hs1]; exact hk)
  case _ => simp; rw [hs1]
  case _ => simp; rw [hs1]
  case _ => simp; rw [hs1]
  case _ => simp; rw [hs1]
  case _ => simp; rw [hs1]
  case _ => simp; rw [hs1]
  case _ => simp; rw [hs1]
  case _ => simp; rw [hs1]
  case _ => exact ⟨[.ok], by simp [ha]⟩
  case _ => simp; rw [hs1]
  case _ => exact advance_seq _ o k (by simp; rw [hs1]; exact hk)

/-- An entry that aborts keeps the operands and ends idle with an error status. -/
theorem performAct_aborted {op : Op} {a : Act} {s t : State} (h : performAct op a s = .aborted t) :
    SameOperands s t ∧ t.seq = .idle ∧ t.status ≠ .ok ∧
      ∃ s1 e ans rest, a.prep s = some (s1, e) ∧ s.answers = ans :: rest ∧ ans ≠ .ok ∧
        t = takeAbort op (e.failStatus ans) (State.record { s1 with answers := rest } e false) := by
  rcases performAct_cases op a s with ⟨-, h1⟩ | ⟨s1, e, hp, ⟨-, -, h1⟩ | ⟨-, x, r, ha, hne, h1⟩ | ⟨-, h1⟩ | ⟨-, r, ha, h1⟩⟩ <;>
    rw [h] at h1 <;> try (simp at h1; done)
  simp only [ActResult.aborted.injEq] at h1
  subst h1
  have hs1 := prep_eq hp
  refine ⟨SameOperands.trans ?_ (takeAbort_same _ _ _), rfl, failStatus_ne_ok _ _, s1, e, x, r, hp, ha, hne, rfl⟩
  constructor <;> simp <;> rw [hs1]

end Sys2Proof.Machine
end

