-- ==== Sys2Proof/Laws/PerInstr.lean ====
section
/-! SUPPORT. The family EncodeHead: the first byte of an instruction's descriptor is its operation code
(30_encoding.md R94), said per constructor. -/

namespace Sys2Proof.Laws.EncodeHead

open Sys2Proof

/-- The operation code of R94. -/
def opOf : Instr → Byte
  | .probe => 0x01
  | .remove => 0x02
  | .cmd _ _ => 0x03
  | .sync _ => 0x04
  | .syncr _ _ _ _ _ => 0x05
  | .fill _ _ _ _ _ => 0x06

/-- The descriptor begins with the operation code and has the length R96 reads from it. -/
def Statement (i : Instr) : Prop :=
  ∀ cfg : Config, i.wf cfg = true →
    (encode cfg i).head? = some (opOf i) ∧ descLength cfg (encode cfg i) = some (encode cfg i).length

theorem probe : Statement .probe := fun _ _ => ⟨rfl, rfl⟩

theorem remove : Statement .remove := fun _ _ => ⟨rfl, rfl⟩

theorem cmd (c : Byte) (p : List Byte) : Statement (.cmd c p) := fun cfg h => by
  simp only [Instr.wf, paramsWf, Bool.and_eq_true, decide_eq_true_eq] at h
  refine ⟨rfl, ?_⟩
  simp [encode, descLength, opCmd, opProbe, opRemove, Nat.mod_eq_of_lt h.2]
  omega

theorem sync (fb : Nat) : Statement (.sync fb) := fun cfg _ => by
  refine ⟨rfl, ?_⟩
  simp [encode, descLength, opSync, opCmd, opProbe, opRemove]
  omega

theorem syncr (fb : Nat) (x1 x2 y1 y2 : Half) : Statement (.syncr fb x1 x2 y1 y2) := fun cfg _ => by
  refine ⟨rfl, ?_⟩
  simp [encode, descLength, opSyncr, opSync, opCmd, opProbe, opRemove]
  omega

theorem fill (color x1 x2 y1 y2 : Half) : Statement (.fill color x1 x2 y1 y2) := fun _ _ => ⟨rfl, rfl⟩

end Sys2Proof.Laws.EncodeHead
end

