-- ==== Sys2Proof/Laws/Sequencer.lean ====
section
/-! SUPPORT. Runs of an expansion: a list of entries that all complete can be run first, and a run is the
sequencer iterated. -/

namespace Sys2Proof.Machine

open Sys2Proof

/-- The state after a list of entries that all complete; none as soon as one does not. -/
def advanceAll (op : Op) : List Act → State → Option State
  | [], s => some s
  | a :: rest, s =>
    match performAct op a s with
    | .advanced t => advanceAll op rest t
    | .waiting => none
    | .refused _ => none
    | .aborted _ => none

@[simp] theorem advanceAll_nil (op : Op) (s : State) : advanceAll op [] s = some s := rfl

theorem advanceAll_cons {op : Op} {a : Act} {rest : List Act} {s t : State} (h : performAct op a s = .advanced t) :
    advanceAll op (a :: rest) s = advanceAll op rest t := by simp [advanceAll, h]

theorem advanceAll_append {op : Op} {as bs : List Act} {s t : State} (h : advanceAll op as s = some t) :
    advanceAll op (as ++ bs) s = advanceAll op bs t := by
  induction as generalizing s with
  | nil => simp at h; simp [h]
  | cons a r ih =>
    rw [List.cons_append, advanceAll]
    rw [advanceAll] at h
    split at h <;> simp_all

/-- Entries that complete are run first, and the rest of the expansion from where they end. -/
theorem runActs_append {op : Op} {as bs : List Act} {s t : State} (h : advanceAll op as s = some t) :
    runActs op (as ++ bs) s = runActs op bs t := by
  induction as generalizing s with
  | nil => simp at h; simp [h]
  | cons a r ih =>
    rw [List.cons_append, runActs]
    rw [advanceAll] at h
    split at h <;> simp_all

/-- An expansion all of whose entries complete ends the operation (R24). -/
theorem runActs_of_advanceAll {op : Op} {as : List Act} {s t : State} (h : advanceAll op as s = some t) :
    runActs op as s = .next (complete op t) := by
  have := runActs_append (bs := []) h
  simpa [runActs] using this

/-- Everything a run can give: completion, a wait, an abort, each after a first part that completed, or a
refusal. -/
theorem runActs_cases (op : Op) (as : List Act) (s t : State) (h : runActs op as s = .next t) :
    (∃ u, advanceAll op as s = some u ∧ t = complete op u) ∨
    ∃ pre a post u, as = pre ++ a :: post ∧ advanceAll op pre s = some u ∧
      ((performAct op a u = .waiting ∧ t = u) ∨ performAct op a u = .aborted t) := by
  induction as generalizing s with
  | nil => exact .inl ⟨s, rfl, by simpa [runActs] using h.symm⟩
  | cons a r ih =>
    rw [runActs] at h
    split at h
    · rename_i hw
      exact .inr ⟨[], a, r, s, rfl, rfl, .inl ⟨hw, by simpa using h.symm⟩⟩
    · exact absurd h (by simp)
    · rename_i s1 hw
      simp only [Host.Outcome.next.injEq] at h
      subst h
      exact .inr ⟨[], a, r, s, rfl, rfl, .inr hw⟩
    · rename_i s1 hw
      rcases ih s1 h with ⟨u, hu, rfl⟩ | ⟨pre, b, post, u, rfl, hu, hc⟩
      · exact .inl ⟨u, by rw [advanceAll_cons hw, hu], rfl⟩
      · exact .inr ⟨a :: pre, b, post, u, rfl, by rw [advanceAll_cons hw, hu], hc⟩

/-- What a first part of an expansion that completes does: operands kept, one event each, `SEQ` moved on by its length. -/
theorem advanceAll_spec {op : Op} {as : List Act} {s t : State} (h : advanceAll op as s = some t) :
    SameOperands s t ∧ (∃ es, t.out = s.out ++ allOk es ∧ es.length = as.length) ∧
      (∃ used, s.answers = used ++ t.answers) ∧ t.status = s.status ∧
      (∀ o k, s.seq = .busy o k → t.seq = .busy o (k + as.length)) := by
  induction as generalizing s with
  | nil =>
    simp at h
    subst h
    exact ⟨.rfl, ⟨[], by simp [allOk], rfl⟩, ⟨[], rfl⟩, rfl, fun o k hk => by simpa using hk⟩
  | cons a r ih =>
    rw [advanceAll] at h
    split at h <;> try simp at h
    rename_i u hu
    obtain ⟨hs, ⟨s1, e, -, ho⟩, ⟨us, hus⟩, hst, hq⟩ := performAct_advanced hu
    obtain ⟨hs', ⟨es, ho', hl⟩, ⟨us', hus'⟩, hst', hq'⟩ := ih h
    refine ⟨hs.trans hs', ⟨e :: es, ?_, by simp [hl]⟩, ⟨us ++ us', ?_⟩, hst'.trans hst, fun o k hk => ?_⟩
    · rw [ho', ho]; simp [allOk]
    · rw [hus, hus']; simp
    · rw [hq' o (k + 1) (hq o k hk)]; simp [Nat.add_assoc, Nat.add_comm 1]

/-- One step of the sequencer at an entry of the expansion. -/
theorem seqStep_at {s : State} {op : Op} {k : Nat} {a : Act} (hs : s.seq = .busy op k)
    (ha : (expand s op)[k]? = some a) :
    seqStep s = match performAct op a s with
      | .waiting => .next s
      | .refused r => .refused r
      | .aborted t => .next t
      | .advanced t => .next t := by
  cases h : performAct op a s <;> simp [seqStep, hs, ha, h]

/-- One step of the sequencer past the last entry: completion. -/
theorem seqStep_end {s : State} {op : Op} {k : Nat} (hs : s.seq = .busy op k) (hk : (expand s op).length ≤ k) :
    seqStep s = .next (complete op s) := by
  simp [seqStep, hs, List.getElem?_eq_none hk]

/-- A run from position `k` is the sequencer iterated. -/
theorem runActs_is_seqIter {op : Op} (as : List Act) (s : State) (k : Nat) (t : State)
    (hs : s.seq = .busy op k) (hd : (expand s op).drop k = as) (h : runActs op as s = .next t) :
    ∃ n, n ≤ as.length + 1 ∧ seqIter n s = .next t := by
  induction as generalizing s k with
  | nil =>
    refine ⟨1, by simp, ?_⟩
    rw [seqIter, seqStep_end hs (List.drop_eq_nil_iff.1 hd)]
    simpa [runActs, seqIter] using h
  | cons a r ih =>
    have ha : (expand s op)[k]? = some a := by
      have := congrArg List.head? hd
      simpa [List.head?_drop] using this
    have hstep := seqStep_at hs ha
    rw [runActs] at h
    split at h
    · exact ⟨0, by omega, by simpa [seqIter] using h⟩
    · exact absurd h (by simp)
    · rename_i s1 hw
      refine ⟨1, by omega, ?_⟩
      rw [seqIter, hstep, hw]
      simpa [seqIter] using h
    · rename_i s1 hw
      obtain ⟨hsame, -, -, -, hq⟩ := performAct_advanced hw
      have hd' : (expand s1 op).drop (k + 1) = r := by
        rw [expand_congr hsame, ← List.drop_drop, hd]
        rfl
      obtain ⟨n, hn, hit⟩ := ih s1 (k + 1) (hq op k hs) hd' h
      refine ⟨n + 1, by simp; omega, ?_⟩
      rw [seqIter, hstep, hw]
      exact hit

/-! ### One plain event -/

/-- A fixed infallible event completes. -/
theorem performAct_emit_infallible {op : Op} {e : Event} {s : State} (h : e.fallible s.cfg.variant = false) :
    performAct op (.emit e) s = .advanced (s.perform e).advance := by
  simp [performAct, Act.prep, emit_infallible h, Act.post]

/-- A fixed fallible event that is answered `ok` completes. -/
theorem performAct_emit_ok {op : Op} {e : Event} {s : State} {rest : List Answer}
    (h : e.fallible s.cfg.variant = true) (ha : s.answers = .ok :: rest) :
    performAct op (.emit e) s = .advanced (State.perform { s with answers := rest } e).advance := by
  simp [performAct, Act.prep, emit_ok h ha, Act.post]

/-! ### What `exec` can do -/

@[simp] theorem State.latched_cfg (s : State) (i : Instr) : (s.latched i).cfg = s.cfg := by cases i <;> rfl
@[simp] theorem State.latched_seq (s : State) (i : Instr) : (s.latched i).seq = s.seq := by cases i <;> rfl
@[simp] theorem State.latched_mem (s : State) (i : Instr) : (s.latched i).mem = s.mem := by cases i <;> rfl
@[simp] theorem State.latched_out (s : State) (i : Instr) : (s.latched i).out = s.out := by cases i <;> rfl
@[simp] theorem State.latched_reqs (s : State) (i : Instr) : (s.latched i).reqs = s.reqs := by cases i <;> rfl
@[simp] theorem State.latched_answers (s : State) (i : Instr) : (s.latched i).answers = s.answers := by cases i <;> rfl
@[simp] theorem State.latched_bits (s : State) (i : Instr) : (s.latched i).bits = s.bits := by cases i <;> rfl

/-- A blit that goes on is the launch of its operation: every precondition held. -/
theorem startBlit_next {op : Op} {s t : State} (h : startBlit op s = .next t) : launch op s = .next t := by
  unfold startBlit at h
  repeat' split at h
  all_goals first | exact h | cases h

/-- A next state of `exec` comes from idle, and is a rejection or the launch of the instruction's operation with
its latches loaded. -/
theorem exec_next {i : Instr} {s t : State} (h : exec i s = .next t) :
    s.seq = .idle ∧
      ((∃ k, t = s.reject k ∧ (k = .notReady ∨ k = .badRequest ∨ k = .unsupported)) ∨
        launch (s.opOf i) (s.latched i) = .next t) := by
  have idle : ∀ body, whenIdle s body = .next t → s.seq = .idle ∧ body = .next t := by
    intro body hb
    unfold whenIdle at hb
    split at hb
    · exact ⟨‹_›, hb⟩
    · cases hb
  cases i with
  | probe =>
    obtain ⟨hs, hb⟩ := idle _ h
    refine ⟨hs, ?_⟩
    split at hb
    · exact .inl ⟨_, (Host.Outcome.next.inj hb).symm, by simp⟩
    · split at hb
      · exact .inr hb
      · cases hb
  | remove =>
    obtain ⟨hs, hb⟩ := idle _ h
    exact ⟨hs, .inr hb⟩
  | cmd c p =>
    obtain ⟨hs, hb⟩ := idle _ h
    refine ⟨hs, ?_⟩
    split at hb
    · exact .inl ⟨_, (Host.Outcome.next.inj hb).symm, by simp⟩
    · split at hb
      · exact .inl ⟨_, (Host.Outcome.next.inj hb).symm, by simp⟩
      · split at hb
        · cases hb
        · exact .inr hb
  | sync fb =>
    obtain ⟨hs, hb⟩ := idle _ h
    refine ⟨hs, ?_⟩
    split at hb
    · exact .inl ⟨_, (Host.Outcome.next.inj hb).symm, by simp⟩
    · exact .inr (startBlit_next hb)
  | syncr fb x1 x2 y1 y2 =>
    obtain ⟨hs, hb⟩ := idle _ h
    refine ⟨hs, ?_⟩
    split at hb
    · exact .inl ⟨_, (Host.Outcome.next.inj hb).symm, by simp⟩
    · exact .inr (startBlit_next hb)
  | fill color x1 x2 y1 y2 =>
    obtain ⟨hs, hb⟩ := idle _ h
    refine ⟨hs, ?_⟩
    split at hb
    · exact .inl ⟨_, (Host.Outcome.next.inj hb).symm, by simp⟩
    · split at hb
      · exact .inl ⟨_, (Host.Outcome.next.inj hb).symm, by simp⟩
      · unfold startFill at hb
        split at hb
        · cases hb
        · split at hb
          · cases hb
          · exact .inr hb

end Sys2Proof.Machine
end

