-- ==== Sys2Proof/Tests/Slice0.lean ====
section
/-! SUPPORT. The model's own tests. Expected results are the vectors of 95_test_vectors.md (named by their
numbers) or hand calculation from the rules cited; and, for every statement that has hypotheses, a
concrete state and operands that meet all of them together. -/

namespace Sys2Proof.Tests

open Sys2Proof Sys2Proof.Machine

/-! ### WellFormed: each check refuses an ill-formed term -/

theorem test_wf_config_examples : Config.exampleRm.wf = true ∧ Config.exampleSer.wf = true := by decide

theorem test_wf_params_too_many : (Instr.cmd 0xE0 (List.replicate 17 0)).wf Config.exampleRm = false := by decide

theorem test_wf_count_beyond_a_byte :
    (Instr.cmd 0xE0 (List.replicate 256 0)).wf { Config.exampleRm with paramMax := 300 } = false := by decide +kernel

theorem test_wf_sync_address : (Instr.sync (2 ^ 32)).wf Config.exampleRm = false := by decide

theorem test_wf_syncr_address : (Instr.syncr (2 ^ 32) 0 1 0 1).wf Config.exampleRm = false := by decide

theorem test_wf_config_refuses_capacity :
    Config.wf { Config.exampleSer with capC := 0 } = false ∧ Config.wf { Config.exampleRm with paramMax := 3 } = false := by
  decide

theorem test_wf_config_refuses_equal_commands :
    Config.wf { Config.exampleRm with cmdColAddr := 0x2B } = false ∧
    Config.wf { Config.exampleRm with cmdColAddr := 0x2C } = false ∧
    Config.wf { Config.exampleRm with cmdRowAddr := 0x2C } = false := by decide

/-- R6 gives the address width and the geometry no constraint, and `C` is a parameter of the serial transport only. -/
theorem test_wf_config_accepts_what_R6_leaves_open :
    Config.wf { Config.exampleRm with addrW := 12, capC := 0, panelW := 0, panelH := 0 } = true ∧
    (Instr.sync 255).wf { Config.exampleRm with addrW := 12 } = true ∧
    (Instr.sync 256).wf { Config.exampleRm with addrW := 12 } = false := by decide

theorem test_wf_config_refuses_table :
    Config.wf { Config.exampleRm with initTable := Config.exampleRm.initTable.drop 1 } = false ∧
    Config.wf { Config.exampleRm with initTable := ⟨0xA1, List.replicate 17 0⟩ :: Config.exampleRm.initTable.drop 1 } = false ∧
    Config.wf { Config.exampleRm with initTable := ⟨0x2C, []⟩ :: Config.exampleRm.initTable.drop 1 } = false := by decide

/-! ### Decoding: words written out from R92 to R94, vectors L2.10 and L2.9 -/

theorem test_decode_probe : decode Config.exampleRm [0x01] = .ok .probe := by decide
theorem test_decode_remove : decode Config.exampleRm [0x02] = .ok .remove := by decide
theorem test_decode_cmd_none : decode Config.exampleRm [0x03, 0x29, 0x00] = .ok (.cmd 0x29 []) := by decide
theorem test_decode_cmd_four :
    decode Config.exampleRm [0x03, 0x2A, 0x04, 0x00, 0x00, 0x01, 0x3F] = .ok (.cmd 0x2A [0x00, 0x00, 0x01, 0x3F]) := by decide
theorem test_decode_sync : decode Config.exampleRm [0x04, 0x10, 0x00, 0x00, 0x00] = .ok (.sync 0x10000000) := by decide
theorem test_decode_syncr :
    decode Config.exampleRm [0x05, 0x10, 0x00, 0x00, 0x00, 0x00, 0x00, 0x01, 0x40, 0x00, 0x00, 0x01, 0xE0] =
      .ok (.syncr 0x10000000 0 320 0 480) := by decide
theorem test_decode_fill :
    decode Config.exampleRm [0x06, 0x07, 0xE0, 0x00, 0x0A, 0x00, 0x14, 0x00, 0x1E, 0x00, 0x20] =
      .ok (.fill 0x07E0 10 20 30 32) := by decide
theorem test_encode_syncr :
    encode Config.exampleRm (.syncr 0x10000000 4 6 8 10) =
      [0x05, 0x10, 0x00, 0x00, 0x00, 0x00, 0x04, 0x00, 0x06, 0x00, 0x08, 0x00, 0x0A] := by decide
theorem test_encode_fill :
    encode Config.exampleRm (.fill 0xF800 0 10 0 10) =
      [0x06, 0xF8, 0x00, 0x00, 0x00, 0x00, 0x0A, 0x00, 0x00, 0x00, 0x0A] := by decide
theorem test_encode_cmd : encode Config.exampleRm (.cmd 0x36 [0x48]) = [0x03, 0x36, 0x01, 0x48] := by decide
theorem test_decode_rejects :
    decode Config.exampleRm [0x00] = .error (.reservedOp 0x00) ∧ decode Config.exampleRm [0x07] = .error (.reservedOp 0x07) ∧
    decode Config.exampleRm [0xFF] = .error (.reservedOp 0xFF) ∧
    decode Config.exampleRm [0x04, 0x10, 0x00, 0x00] = .error .badLength ∧
    decode Config.exampleRm ([0x03, 0xE0, 0x11] ++ List.replicate 17 0) = .error .tooManyParams ∧
    decode Config.exampleRm [] = .error .empty ∧ decode Config.exampleRm [0x01, 0x00] = .error .badLength := by decide
theorem test_decode_address_width :
    decode { Config.exampleRm with addrW := 16 } [0x04, 0x12, 0x34] = .ok (.sync 0x1234) := by decide
theorem test_table_words :
    decodeTableWord 8 0x01 = some .probe ∧ decodeTableWord 8 0x02 = some .remove ∧
    decodeTableWord 8 0x03 = some (.cmd 0 []) ∧ decodeTableWord 8 0x04 = some (.sync 0) ∧
    decodeTableWord 8 0x05 = some (.syncr 0 0 0 0 0) ∧ decodeTableWord 8 0x06 = some (.fill 0 0 0 0 0) ∧
    decodeTableWord 8 0x07 = none := by decide

/-! ### Small states -/

/-- The next state of an outcome. -/
def nextOf : Host.Outcome State Fault Refusal → State
  | .next t => t
  | .fault _ => State.reset
  | .refused _ => State.reset

/-- The outcome is a next state. -/
def isNext : Host.Outcome State Fault Refusal → Bool
  | .next _ => true
  | .fault _ => false
  | .refused _ => false

theorem eq_next {o : Host.Outcome State Fault Refusal} (h : isNext o = true) : o = .next (nextOf o) := by
  cases o <;> simp_all [isNext, nextOf]

/-- A refusal as a value that can be compared. -/
def refusalOf : Host.Outcome State Fault Refusal → Option Refusal
  | .next _ => none
  | .fault _ => none
  | .refused r => some r

/-- Bytes from an address on. -/
def bytesAt : Nat → List Byte → Memory
  | _, [] => []
  | a, b :: r => (a, b) :: bytesAt (a + 1) r

/-- The six pixels of P2, as a little-endian host stores them. -/
def pixels : List Byte := [0x34, 0x12, 0x78, 0x56, 0xBC, 0x9A, 0xF0, 0xDE, 0x0F, 0x0F, 0xF0, 0xF0]

/-- The pixels of P2 by index. -/
def pixelAt (j : Nat) : Half := [0x1234, 0x5678, 0x9ABC, 0xDEF0, 0x0F0F, 0xF0F0].getD j 0

/-- A probed register-mapped device (P1 after step 1), its trace left out. -/
def rmUp : State :=
  { State.resetWith Config.exampleRm with
    devValid := true, initState := .displayOn, blOn := true, rst := .driven .released,
    select := .written false, mem := bytesAt 0x10000000 pixels }

/-- A probed serial device (P2 after step 1), its trace left out, with answers to come. -/
def serUp (as : List Answer) : State :=
  { State.resetWith Config.exampleSer with
    devValid := true, initState := .displayOn, blOn := true, rst := .driven .released,
    mode := .driven .command, tbufValid := true, tbuf := [1, 2, 3, 4], linesValid := true,
    mem := bytesAt 0x20000000 pixels, answers := as }

/-- `n` answers `ok`. -/
def oks (n : Nat) : List Answer := List.replicate n .ok

/-! ### One step per instruction -/

/-- P1 step 1: 74 events, all completed, `OK`. -/
theorem test_probe_rm :
    let t := nextOf (exec .probe { State.reset with answers := oks 2 })
    t.out.length = 74 ∧ t.out.all (·.ok) = true ∧ t.status = .ok ∧ t.devValid = true ∧ t.initState = .displayOn ∧
      t.select = .written false ∧ t.answers = [] := by decide +kernel

/-- L2.8: on a serial device `SER.CLAIM` fails; the record is destroyed. -/
theorem test_probe_claim_failure :
    let t := nextOf (exec .probe { State.resetWith Config.exampleSer with answers := oks 4 ++ [.fail] })
    t.out = allOk [.resGet, .resAlloc, .rst .asserted, .delay 10, .rst .released, .delay 120] ++
      [⟨.serClaim, false⟩] ++ allOk [.resFree, .resPut] ∧ t.status = .busError ∧ t.devValid = false := by decide +kernel

/-- P2 step 4. -/
theorem test_remove :
    let t := nextOf (exec .remove (serUp []))
    t.out = allOk [.resFree, .resPut] ∧ t.status = .ok ∧ t.devValid = false ∧ t.tbufValid = false ∧
      t.initState = .unreset := by decide

/-- L2.1 and L2.2 on a register-mapped device: narrow, wide, and the refused length. -/
theorem test_cmd_rm :
    (nextOf (exec (.cmd 0x36 [0x48]) rmUp)).out =
      allOk [.rmSel true, .rmCmd8 0x36, .rmDat8 0x48, .rmSel false] ∧
    (nextOf (exec (.cmd 0x2C [1, 2, 3, 4]) rmUp)).out =
      allOk [.rmSel true, .rmCmd8 0x2C, .rmDat32 0x04030201, .rmSel false] ∧
    refusalOf (exec (.cmd 0x2C [1, 2, 3]) rmUp) = some .bulkLength := by decide

/-- L2.2, last row: the bulk-write byte is an ordinary frame on a serial device. -/
theorem test_cmd_ser :
    let t := nextOf (exec (.cmd 0x2C [1, 2, 3]) (serUp (oks 9)))
    t.out = allOk [.serClaim, .serDc .command, .serXfer [0x2C], .serDc .data, .serXfer [1], .serXfer [2],
      .serXfer [3], .serRelease] ∧ t.mode = .driven .data ∧ t.busHeld = false ∧ t.answers = oks 2 := by decide

/-- R243 by hand on a 4x1 panel: `N` = 4, 19 events, column end 3, words of P1 step 3. -/
theorem test_sync_rm :
    let s := { rmUp with cfg := { Config.exampleRm with panelW := 4, panelH := 1 } }
    let t := nextOf (exec (.sync 0x10000000) s)
    t.out = allOk [.rmSel true, .rmCmd8 0x2A, .rmDat8 0, .rmDat8 0, .rmDat8 0, .rmDat8 3, .rmSel false,
      .rmSel true, .rmCmd8 0x2B, .rmDat8 0, .rmDat8 0, .rmDat8 0, .rmDat8 0, .rmSel false,
      .rmSel true, .rmCmd8 0x2C, .rmDat32 0x56781234, .rmDat32 0xDEF09ABC, .rmSel false] ∧ t.remain = 0 := by decide

/-- P4 step 1: before PROBE, `NotReady` and no event. -/
theorem test_sync_not_ready :
    let t := nextOf (exec (.sync 0x10000000) State.reset)
    t.status.code = 5 ∧ t.out = [] := by decide

/-- P2 step 2 and R251: two chunks, and the TransferBuffer afterwards. -/
theorem test_syncr_ser :
    let t := nextOf (exec (.syncr 0x20000000 0 3 0 2) (serUp (oks 20)))
    t.out.drop 15 = allOk [.serDc .command, .serXfer [0x2C], .serDc .data,
      .serXfer [0x12, 0x34, 0x56, 0x78, 0x9A, 0xBC, 0xDE, 0xF0], .serXfer [0x0F, 0x0F, 0xF0, 0xF0], .serRelease] ∧
    t.tbuf = [0x0F0F, 0xF0F0, 0xBC9A, 0xF0DE] ∧ t.out.length = 21 ∧ t.status = .ok := by decide

/-- P3 step 3: the row command's `SER.DC(data)` fails, 12 events. -/
theorem test_syncr_ser_failure :
    let t := nextOf (exec (.syncr 0x20000000 0 3 0 2) (serUp (oks 10 ++ [.fail])))
    t.out.length = 12 ∧ t.out.drop 9 = [⟨.serXfer [0x2B], true⟩, ⟨.serDc .data, false⟩, ⟨.serRelease, true⟩] ∧
    t.status.code = 3 ∧ t.mode = .driven .command ∧ t.devValid = true := by decide

/-- L2.7: `FILL 0x07E0, 10, 20, 30, 32`, 27 events, ten words. -/
theorem test_fill_rm :
    let t := nextOf (exec (.fill 0x07E0 10 20 30 32) rmUp)
    t.out.length = 27 ∧ (t.out.drop 16).take 10 = allOk (List.replicate 10 (.rmDat32 0x07E007E0)) ∧
    (t.out.drop 2).take 4 = allOk [.rmDat8 0x00, .rmDat8 0x0A, .rmDat8 0x00, .rmDat8 0x13] := by decide

/-- L2.9: FILL on a serial device, ready and at reset. -/
theorem test_fill_ser :
    (nextOf (exec (.fill 0xF800 0 10 0 10) (serUp []))).status.code = 4 ∧
    (nextOf (exec (.fill 0xF800 0 10 0 10) (State.resetWith Config.exampleSer))).status.code = 5 := by decide

/-- L2.4 and L2.2: the resolver at the 255/256 boundary, and the packing of four bytes in either order. -/
theorem test_operands :
    resolveCol ⟨255, 257, 0, 1⟩ = [0x00, 0xFF, 0x01, 0x00] ∧ resolveRow ⟨319, 320, 479, 480⟩ = [0x01, 0xDF, 0x01, 0xDF] ∧
    pack32 true 0x11 0x22 0x33 0x44 = 0x44332211 ∧ pack32 false 0x11 0x22 0x33 0x44 = 0x11223344 ∧
    fillWord 0xF800 = 0xF800F800 ∧ toWire true 0x1234 = 0x3412 ∧ pixelCount ⟨0, 320, 0, 480⟩ = 153600 := by decide

/-- A program's words reach the machine: the next step runs the word placed. -/
theorem test_withFetchWord :
    (nextOf (step (State.reset.withFetchWord 8 0x04))).status = .notReady ∧
    (nextOf (step (State.reset.withFetchWord 8 0x07))).status = .badRequest ∧
    (nextOf (step (State.reset.withFetchWord 8 0x01))).seq = .busy .probe 0 := by decide

/-! ### Witnesses: states and operands that meet each statement's hypotheses together -/

/-- A device in flight: the serial CMD of `test_cmd_ser` at its first event, unanswered. -/
def serInFlight (as : List Answer) (k : Nat) (held : Bool) : State :=
  { serUp as with
    seq := .busy .cmd k, frame := { cmd := 0x36, plen := 1, param := 0x48 :: List.replicate 15 0 }, busHeld := held }

theorem witness_DecodeEncodeRoundTrip :
    (Instr.syncr (2 ^ 32 - 1) 0xFFFF 0 0xFFFF 0).wf Config.exampleSer = true ∧
    (Instr.cmd 0xFF (List.replicate 16 0xFF)).wf Config.exampleSer = true ∧ (Instr.sync 0).wf Config.exampleSer = true ∧
    (Instr.fill 0xFFFF 0 0 0 0).wf Config.exampleSer = true := by decide

theorem witness_DecodedDescriptorIsTheEncoding :
    decode Config.exampleRm [0x03, 0x36, 0x01, 0x48] = .ok (.cmd 0x36 [0x48]) := by decide

theorem witness_DescriptorLengthByFormat :
    decode Config.exampleRm [0x01] = .ok .probe ∧ decode Config.exampleRm [0x02] = .ok .remove ∧
    decode Config.exampleRm [0x03, 0x29, 0x00] = .ok (.cmd 0x29 []) ∧
    decode Config.exampleRm [0x04, 0xFF, 0xFF, 0xFF, 0xFF] = .ok (.sync (2 ^ 32 - 1)) ∧
    decode Config.exampleRm [0x05, 0, 0, 0, 0, 0, 0, 0, 1, 0, 0, 0, 1] = .ok (.syncr 0 0 1 0 1) ∧
    decode Config.exampleRm [0x06, 0, 0, 0, 0, 0, 1, 0, 0, 0, 1] = .ok (.fill 0 0 1 0 1) := by decide

theorem witness_ReservedOpIsBadRequest :
    (∀ op ∈ [(0x00 : Byte), 0x07, 0xFF], op = 0 ∨ 7 ≤ op.toNat) ∧
    State.seq { rmUp with reqs := [[0x07, 1], [0x02]] } = .idle := by decide

theorem witness_MalformedDescriptorIsBadRequest :
    State.seq { rmUp with reqs := [[]] } = .idle ∧ [(0x01 : Byte), 0].length ≠ 1 ∧ [(0x02 : Byte), 0].length ≠ 1 ∧
    [(0x03 : Byte), 0x29].length < 3 ∧ [(0x03 : Byte), 0x29, 1].length ≠ 3 + (1 : Byte).toNat ∧
    rmUp.cfg.paramMax < (17 : Byte).toNat ∧ [(0x04 : Byte), 0, 0, 0].length ≠ 1 + rmUp.cfg.addrW / 8 ∧
    [(0x05 : Byte)].length ≠ 9 + rmUp.cfg.addrW / 8 ∧ [(0x06 : Byte)].length ≠ 11 := by decide

theorem witness_StepRunsTheDecodedInstruction :
    State.seq { rmUp with reqs := [[0x02], [0x01]] } = .idle ∧ decode rmUp.cfg [0x02] = .ok .remove ∧
    rmUp.reqs = [] ∧ (serInFlight [] 0 false).seq = .busy .cmd 0 := by decide

theorem witness_SequencerStepEmitsOneEvent_ends :
    (serInFlight [] 6 false).seq = .busy .cmd 6 ∧ 6 = (expand (serInFlight [] 6 false) .cmd).length ∧
    isNext (step (serInFlight [] 6 false)) = true := by decide

theorem witness_SequencerStepEmitsOneEvent_event :
    0 < (expand (serInFlight [] 0 false) .cmd).length ∧ isNext (step (serInFlight [] 0 false)) = true ∧
    (nextOf (step (serInFlight (oks 1) 0 false))).seq = .busy .cmd 1 ∧
    (nextOf (step (serInFlight [.fail] 0 false))).seq = .idle ∧
    (nextOf (step (serInFlight [] 5 true))).seq = .busy .cmd 6 ∧
    nextOf (step (serInFlight [] 0 false)) = serInFlight [] 0 false := by decide

theorem witness_UnansweredEventHangs :
    (expand (serInFlight [] 2 true) .cmd)[2]? = some (.emit (.serXfer [0x36])) ∧
    Act.prep (.emit (.serXfer [0x36])) (serInFlight [] 2 true) = some (serInFlight [] 2 true, .serXfer [0x36]) ∧
    Event.fallible (serInFlight [] 2 true).cfg.variant (.serXfer [0x36]) = true ∧
    (serInFlight [] 2 true).answers = [] := by decide

theorem witness_OneRequestAtATime :
    (serInFlight [] 0 false).seq = .busy .cmd 0 ∧ isNext (step (serInFlight [] 0 false)) = true := by decide

theorem witness_ExecIsTheSequencerIterated :
    exec (.cmd 0x36 [0x48]) (serUp (oks 9)) = .next (nextOf (exec (.cmd 0x36 [0x48]) (serUp (oks 9)))) ∧
    exec .probe (serUp []) = .next (nextOf (exec .probe (serUp []))) :=
  ⟨eq_next (by decide), eq_next (by decide)⟩

theorem witness_OperationEndsOrAwaitsAnAnswer :
    exec (.cmd 0x36 [0x48]) (serUp (oks 3)) = .next (nextOf (exec (.cmd 0x36 [0x48]) (serUp (oks 3)))) ∧
    (nextOf (exec (.cmd 0x36 [0x48]) (serUp (oks 3)))).seq = .busy .cmd 3 :=
  ⟨eq_next (by decide), by decide⟩

theorem witness_ResetMeetsTheInvariant : Config.exampleSer.wf = true := by decide

/-- A ready serial device meets the invariant, and its (empty) trace is legal. -/
theorem serUp_inv : (serUp []).Inv ∧ (serUp []).TraceLegal :=
  ⟨⟨by decide, by decide, by decide, by decide, by decide, Or.inr (by decide)⟩, rfl⟩

/-- A serial CMD in flight after its claim meets the invariant. -/
theorem serInFlight_inv : (serInFlight (oks 1) 1 true).Inv :=
  ⟨by decide, by decide, by decide, by decide, by decide, by decide, Bits.up .ser, rfl, by decide⟩

/-- A PROBE in flight on a register-mapped device, about to close its first transition. -/
def rmProbing : State := { State.reset with seq := .busy .probe 4, rst := .driven .released }

theorem rmProbing_inv : rmProbing.Inv :=
  ⟨by decide, by decide, by decide, by decide, by decide, by decide, Bits.down, rfl, by decide⟩

theorem witness_StepKeepsTheInvariant :
    (serInFlight (oks 1) 1 true).Inv ∧ step (serInFlight (oks 1) 1 true) = .next (nextOf (step (serInFlight (oks 1) 1 true))) :=
  ⟨serInFlight_inv, eq_next (by decide)⟩

theorem witness_StepKeepsTheTraceLegal :
    (State.Inv { serUp (oks 9) with reqs := [[0x03, 0x36, 0x01, 0x48]] }) ∧
    (State.TraceLegal { serUp (oks 9) with reqs := [[0x03, 0x36, 0x01, 0x48]] }) ∧
    isNext (step { serUp (oks 9) with reqs := [[0x03, 0x36, 0x01, 0x48]] }) = true :=
  ⟨⟨by decide, by decide, by decide, by decide, by decide, Or.inr (by decide)⟩, rfl, by decide⟩

theorem witness_IdleStateMeetsR42 :
    (serUp []).Inv ∧ step (serUp []) = .next (serUp []) ∧ (serUp []).seq = .idle := ⟨serUp_inv.1, rfl, rfl⟩

theorem witness_InitStateAdvancesLinearly :
    rmProbing.Inv ∧ rmProbing.seq = .busy .probe 4 ∧ step rmProbing = .next (nextOf (step rmProbing)) ∧
    (nextOf (step rmProbing)).initState = .hardReset := ⟨rmProbing_inv, rfl, eq_next (by decide), by decide⟩

/-- A REMOVE in flight whose list is empty, about to end. -/
theorem witness_InitStateAdvancesLinearly_remove :
    let s := { rmUp with seq := .busy (.remove false false) 0 }
    s.Inv ∧ step s = .next (nextOf (step s)) ∧ (nextOf (step s)).initState = .unreset :=
  ⟨⟨by decide, by decide, by decide, by decide, by decide, by decide, Bits.up .rm, ⟨Or.inr rfl, rfl, rfl⟩, by decide⟩,
   eq_next (by decide), by decide⟩

theorem witness_StepOnlyReadsItsInputs :
    isNext (step { serUp (oks 9) with reqs := [[0x03, 0x36, 0x01, 0x48]] }) = true := by decide

theorem witness_WrongStateIsNotReady :
    State.reset.seq = .idle ∧ State.reset.devValid = false ∧ rmUp.devValid = true ∧ rmUp.seq = .idle ∧
    ¬ (State.reset.devValid = true ∧ State.reset.initState = .displayOn) ∧
    (List.replicate 16 (0 : Byte)).length ≤ State.reset.cfg.paramMax := by decide

theorem rmUp_ready : rmUp.Ready := ⟨rfl, rfl, rfl⟩

theorem serUp_ready (as : List Answer) : (serUp as).Ready := ⟨rfl, rfl, rfl⟩

theorem witness_SerialFillIsUnsupported : (serUp []).Ready ∧ (serUp []).cfg.variant = .ser := ⟨serUp_ready [], rfl⟩

theorem witness_TooManyParametersIsBadRequest :
    State.reset.seq = .idle ∧ State.reset.cfg.paramMax < (List.replicate 17 (0 : Byte)).length := by decide

/-- L2.4: the empty rectangle, one column beyond the panel, and the all-zero rectangle. -/
theorem witness_BadClipIsRefused :
    rmUp.Ready ∧ rmUp.cfg.variant = .rm ∧ ¬ ClipInv rmUp.cfg ⟨5, 5, 0, 1⟩ ∧ ¬ ClipInv rmUp.cfg ⟨0, 321, 0, 1⟩ ∧
    ¬ ClipInv rmUp.cfg ⟨0, 0, 0, 0⟩ := ⟨rmUp_ready, rfl, by unfold ClipInv; decide, by unfold ClipInv; decide, by unfold ClipInv; decide⟩

/-- L2.6: the last pixel of the panel alone. -/
theorem witness_OddBulkLengthIsRefused :
    rmUp.Ready ∧ rmUp.cfg.variant = .rm ∧ IsBlit rmUp.cfg (.syncr 0x10000000 319 320 479 480) 0x10000000 ⟨319, 320, 479, 480⟩ ∧
    ClipInv rmUp.cfg ⟨319, 320, 479, 480⟩ ∧ pixelCount ⟨319, 320, 479, 480⟩ % 2 = 1 ∧
    [(1 : Byte), 2, 3].length ≤ rmUp.cfg.paramMax ∧ [(1 : Byte), 2, 3].length % 4 ≠ 0 :=
  ⟨rmUp_ready, rfl, .inr rfl, by unfold ClipInv; decide, by decide, by decide, by decide⟩

theorem witness_BadSourceBufferIsRefused :
    (serUp []).Ready ∧ IsBlit (serUp []).cfg (.syncr 0x20000001 0 3 0 3) 0x20000001 ⟨0, 3, 0, 3⟩ ∧
    IsBlit (serUp []).cfg (.syncr 0x20000000 0 3 0 3) 0x20000000 ⟨0, 3, 0, 3⟩ ∧
    ClipInv (serUp []).cfg ⟨0, 3, 0, 3⟩ ∧ 0x20000001 % 2 ≠ 0 ∧ 0x20000000 % 2 = 0 ∧
    (∃ j, j < 2 * pixelCount ⟨0, 3, 0, 3⟩ ∧ (serUp []).memByte (0x20000000 + j) = none) :=
  ⟨serUp_ready [], .inr rfl, .inr rfl, by unfold ClipInv; decide, by decide, by decide, 12, by decide, by decide⟩

/-- The register-mapped form: an address of 2 modulo 4, and a buffer that ends before its eighth pixel. -/
theorem witness_BadSourceBufferIsRefused_registerMapped :
    rmUp.Ready ∧ rmUp.cfg.variant = .rm ∧ IsBlit rmUp.cfg (.syncr 0x10000002 0 2 0 4) 0x10000002 ⟨0, 2, 0, 4⟩ ∧
    IsBlit rmUp.cfg (.syncr 0x10000000 0 2 0 4) 0x10000000 ⟨0, 2, 0, 4⟩ ∧
    ClipInv rmUp.cfg ⟨0, 2, 0, 4⟩ ∧ pixelCount ⟨0, 2, 0, 4⟩ % 2 = 0 ∧ 0x10000002 % 4 ≠ 0 ∧ 0x10000000 % 4 = 0 ∧
    (∃ j, j < 2 * pixelCount ⟨0, 2, 0, 4⟩ ∧ rmUp.memByte (0x10000000 + j) = none) :=
  ⟨rmUp_ready, rfl, .inr rfl, .inr rfl, by unfold ClipInv; decide, by decide, by decide, by decide, 15, by decide, by decide⟩

theorem witness_ProbeCompletesRegisterMapped :
    State.reset.cfg.wf = true ∧ State.reset.cfg.variant = .rm ∧ State.reset.seq = .idle ∧ State.reset.devValid = false ∧
    State.AnswersOk { State.reset with answers := oks 2 } 2 [] := ⟨by decide, rfl, rfl, rfl, rfl⟩

theorem witness_ProbeCompletesSerial :
    Config.exampleSer.wf = true ∧
    State.AnswersOk { State.resetWith Config.exampleSer with answers := oks 68 ++ [.fail] }
      (fallibleCount Config.exampleSer (Expect.probe Config.exampleSer)) [.fail] :=
  ⟨by decide, by unfold State.AnswersOk; decide⟩

theorem witness_ProbeSendsTheDocumentedOrder :
    let s := { State.resetWith Config.exampleSer with answers := oks 80 }
    isNext (exec .probe s) = true ∧ (nextOf (exec .probe s)).seq = .idle ∧ (nextOf (exec .probe s)).status = .ok := by
  decide +kernel

theorem witness_FailedProbeLeavesNoDevice :
    let s := { State.reset with answers := oks 1 ++ [.fail] }
    isNext (exec .probe s) = true ∧ (nextOf (exec .probe s)).seq = .idle ∧
      (nextOf (exec .probe s)).status = .resourceUnavailable := by decide +kernel

theorem witness_FailedProbeLeavesNoDevice_inv : State.Inv { State.resetWith Config.exampleSer with answers := [.fail] } :=
  ⟨by decide, by decide, by decide, by decide, by decide, Or.inl (by decide)⟩

/-- L2.8: the claim fails (serial) and BL(on) fails after all seventeen commands (register-mapped); and the first
event of all fails. The last two clauses are L2.8's own outcome. -/
theorem witness_FailedProbeStopsAtTheFirstError :
    let s := { State.resetWith Config.exampleSer with answers := oks 4 ++ [.fail] }
    let r := { State.reset with answers := oks 1 ++ [.fail] }
    (Expect.probe s.cfg)[6]? = some .serClaim ∧ s.AnswersOk (fallibleCount s.cfg ((Expect.probe s.cfg).take 6)) [.fail] ∧
    (Expect.probe r.cfg)[73]? = some .blOn ∧ r.AnswersOk (fallibleCount r.cfg ((Expect.probe r.cfg).take 73)) [.fail] ∧
    (Expect.probe r.cfg)[0]? = some .resGet ∧
    (nextOf (exec .probe s)).out =
      allOk [.resGet, .resAlloc, .rst .asserted, .delay 10, .rst .released, .delay 120] ++
        [⟨.serClaim, false⟩, ⟨.resFree, true⟩, ⟨.resPut, true⟩] ∧
    (nextOf (exec .probe r)).out.length = 74 := by
  unfold State.AnswersOk; decide +kernel

/-- Reset meets the invariant on both transports. -/
theorem witness_FailedProbeStopsAtTheFirstError_inv :
    State.Inv { State.reset with answers := oks 1 ++ [.fail] } ∧
    State.Inv { State.resetWith Config.exampleSer with answers := oks 4 ++ [.fail] } :=
  ⟨⟨by decide, by decide, by decide, by decide, by decide, Or.inl (by decide)⟩,
   ⟨by decide, by decide, by decide, by decide, by decide, Or.inl (by decide)⟩⟩

/-- R184: a slot under the bulk-write command. -/
theorem witness_IllFormedConfigIsRefused :
    let s := State.resetWith { Config.exampleRm with initTable := List.replicate 14 ⟨0x2C, []⟩ }
    s.seq = .idle ∧ s.devValid = false ∧ s.cfg.wf = false := by decide

theorem witness_RemoveCompletes :
    (serUp []).seq = .idle ∧ exec .remove (serUp []) = .next (nextOf (exec .remove (serUp []))) :=
  ⟨rfl, eq_next (by decide)⟩

theorem witness_CmdCompletesNarrow :
    rmUp.cfg.variant = .rm ∧ rmUp.seq = .idle ∧ rmUp.devValid = true ∧
    (List.replicate 16 (7 : Byte)).length ≤ rmUp.cfg.paramMax ∧ (0x36 : Byte) ≠ rmUp.cfg.cmdBulkWrite := by decide

theorem witness_CmdCompletesWide :
    rmUp.cfg.variant = .rm ∧ rmUp.devValid = true ∧ (List.replicate 16 (7 : Byte)).length ≤ rmUp.cfg.paramMax ∧
    (List.replicate 16 (7 : Byte)).length % 4 = 0 ∧ ([] : List Byte).length % 4 = 0 := by decide

theorem witness_CmdCompletesSerial :
    (serUp (oks 5)).devValid = true ∧ (serUp (oks 5)).AnswersOk (1 + (Expect.serFrame 0x36 [0x48]).length) [] ∧
    (serUp (oks 5)).AnswersOk (1 + (Expect.serFrame 0x29 []).length) (oks 2) := ⟨rfl, rfl, rfl⟩

theorem witness_CmdFailureReleasesTheBus :
    (serUp (oks 4 ++ [.fail])).busHeld = false ∧
    (Event.serClaim :: Expect.serFrame 0x36 [0x48])[4]? = some (.serXfer [0x48]) ∧
    (serUp (oks 4 ++ [.fail])).AnswersOk 4 [.fail] ∧ (serUp [.fail]).AnswersOk 0 [.fail] ∧
    (Event.serClaim :: Expect.serFrame 0x36 [0x48])[0]? = some .serClaim := ⟨rfl, rfl, rfl, rfl, rfl⟩

theorem witness_BlitCompletesRegisterMapped :
    rmUp.cfg.wf = true ∧ rmUp.Ready ∧ IsBlit rmUp.cfg (.syncr 0x10000000 4 6 8 10) 0x10000000 ⟨4, 6, 8, 10⟩ ∧
    ClipInv rmUp.cfg ⟨4, 6, 8, 10⟩ ∧ pixelCount ⟨4, 6, 8, 10⟩ % 2 = 0 ∧ 0x10000000 % 4 = 0 ∧
    (∀ j, j < pixelCount ⟨4, 6, 8, 10⟩ / 2 →
      rmUp.memWord (0x10000000 + 4 * j) = some ([0x56781234, 0xDEF09ABC].getD j 0)) :=
  ⟨by decide, rmUp_ready, .inr rfl, by unfold ClipInv; decide, by decide, by decide, by decide⟩

/-- The same for SYNC, on a panel of 4x1. -/
theorem witness_BlitCompletesRegisterMapped_sync :
    let s := { rmUp with cfg := { Config.exampleRm with panelW := 4, panelH := 1 } }
    s.cfg.wf = true ∧ IsBlit s.cfg (.sync 0x10000000) 0x10000000 ⟨0, 4, 0, 1⟩ ∧ ClipInv s.cfg ⟨0, 4, 0, 1⟩ ∧
    (∀ j, j < 2 → s.memWord (0x10000000 + 4 * j) = some ([0x56781234, 0xDEF09ABC].getD j 0)) :=
  ⟨by decide, .inl ⟨rfl, rfl⟩, by unfold ClipInv; decide, by decide⟩

theorem witness_BlitCompletesSerial :
    (serUp (oks 20)).cfg.wf = true ∧ (serUp (oks 20)).Ready ∧
    IsBlit (serUp (oks 20)).cfg (.syncr 0x20000000 0 3 0 2) 0x20000000 ⟨0, 3, 0, 2⟩ ∧
    ClipInv (serUp (oks 20)).cfg ⟨0, 3, 0, 2⟩ ∧
    (∀ j, j < pixelCount ⟨0, 3, 0, 2⟩ → (serUp (oks 20)).memHalf (0x20000000 + 2 * j) = some (pixelAt j)) ∧
    (serUp (oks 20)).AnswersOk (18 + Expect.ceilDiv (pixelCount ⟨0, 3, 0, 2⟩) (serUp (oks 20)).cfg.capC) [] :=
  ⟨by decide, serUp_ready _, .inr rfl, by unfold ClipInv; decide, by decide, rfl⟩

theorem witness_SerialChunkingLaws :
    exec (.syncr 0x20000000 0 3 0 2) (serUp (oks 20)) =
      .next (nextOf (exec (.syncr 0x20000000 0 3 0 2) (serUp (oks 20)))) ∧
    (nextOf (exec (.syncr 0x20000000 0 3 0 2) (serUp (oks 20)))).seq = .idle ∧
    (nextOf (exec (.syncr 0x20000000 0 3 0 2) (serUp (oks 20)))).status = .ok :=
  ⟨eq_next (by decide), by decide, by decide⟩

/-- `N` = 4 = `C`, `N` a multiple of `C`: one chunk of `C` pixels; and `N` = 3, odd. -/
theorem witness_SerialChunkingLaws_edges :
    pixelCount ⟨0, 2, 0, 2⟩ % (serUp (oks 19)).cfg.capC = 0 ∧ ClipInv (serUp (oks 19)).cfg ⟨0, 2, 0, 2⟩ ∧
    (nextOf (exec (.syncr 0x20000000 0 2 0 2) (serUp (oks 19)))).status = .ok ∧
    (Expect.transfers ((nextOf (exec (.syncr 0x20000000 0 2 0 2) (serUp (oks 19)))).out.map (·.ev))).drop 11 =
      [[0x12, 0x34, 0x56, 0x78, 0x9A, 0xBC, 0xDE, 0xF0]] ∧
    pixelCount ⟨0, 3, 0, 1⟩ % 2 = 1 ∧ (nextOf (exec (.syncr 0x20000000 0 3 0 1) (serUp (oks 19)))).status = .ok := by
  unfold ClipInv; decide

/-- P3 steps 1 and 2: the claim fails, and the second chunk fails. -/
theorem witness_BlitFailureStopsAtTheFirstError :
    (serUp [.fail]).AnswersOk 0 [.fail] ∧ (serUp (oks 19 ++ [.fail])).AnswersOk 19 [.fail] ∧
    19 < 18 + Expect.ceilDiv (pixelCount ⟨0, 3, 0, 2⟩) (serUp []).cfg.capC ∧
    (Expect.serBlit Config.exampleSer ⟨0, 3, 0, 2⟩ 6 pixelAt)[19]? = some (.serXfer [0x0F, 0x0F, 0xF0, 0xF0]) ∧
    (Expect.serBlit Config.exampleSer ⟨0, 3, 0, 2⟩ 6 pixelAt)[0]? = some .serClaim := by
  refine ⟨rfl, rfl, by decide, by decide, by decide⟩

theorem witness_SyncIsSyncrOfTheFullExtent : rmUp.seq = .idle := rfl

theorem witness_EmissionIgnoresStaleState :
    let s := serUp (oks 20)
    let s' := { serUp (oks 20) with mode := .driven .data, tbuf := [9, 9, 9, 9], out := [⟨.blOn, true⟩] }
    s.cfg = s'.cfg ∧ s.mem = s'.mem ∧ s.answers = s'.answers ∧ s.devValid = s'.devValid ∧ s.initState = s'.initState ∧
    s.busHeld = false ∧ s'.busHeld = false ∧ isNext (exec (.syncr 0x20000000 0 3 0 2) s) = true ∧
    isNext (exec (.syncr 0x20000000 0 3 0 2) s') = true := by decide

theorem witness_FillCompletes :
    rmUp.cfg.wf = true ∧ rmUp.Ready ∧ ClipInv rmUp.cfg ⟨10, 20, 30, 32⟩ ∧ pixelCount ⟨10, 20, 30, 32⟩ % 2 = 0 :=
  ⟨by decide, rmUp_ready, by unfold ClipInv; decide, by decide⟩

theorem witness_FillEqualsBlitOfConstantBuffer :
    let s := { rmUp with mem := bytesAt 0x10000000 [0xE0, 0x07, 0xE0, 0x07] }
    s.Ready ∧ ClipInv s.cfg ⟨255, 257, 0, 1⟩ ∧
    (∀ j, j < pixelCount ⟨255, 257, 0, 1⟩ → s.memHalf (0x10000000 + 2 * j) = some 0x07E0) :=
  ⟨⟨rfl, rfl, rfl⟩, by unfold ClipInv; decide, by decide⟩

theorem witness_AbortEffects :
    (serInFlight [.fail] 2 true).seq = .busy .cmd 2 ∧
    (expand (serInFlight [.fail] 2 true) .cmd)[2]? = some (.emit (.serXfer [0x36])) ∧
    Act.prep (.emit (.serXfer [0x36])) (serInFlight [.fail] 2 true) = some (serInFlight [.fail] 2 true, .serXfer [0x36]) ∧
    Event.fallible .ser (.serXfer [0x36]) = true ∧ (serInFlight [.fail] 2 true).answers = [.fail] := by decide

theorem witness_AbortEffects_probe :
    let s := { State.reset with seq := .busy .probe 0, answers := [.unsupported] }
    (expand s .probe)[0]? = some (.emit .resGet) ∧ Act.prep (.emit .resGet) s = some (s, .resGet) ∧
    Event.fallible s.cfg.variant .resGet = true ∧ s.answers = [.unsupported] := by decide

theorem witness_RegisterMappedOperationsNeverFail :
    rmUp.cfg.variant = .rm ∧ isNext (exec (.fill 0x07E0 10 20 30 32) rmUp) = true := by decide

theorem witness_frames :
    isNext (exec (.cmd 0x36 [0x48]) (serUp (oks 9))) = true ∧ isNext (exec (.cmd 0x2C [1, 2, 3, 4]) rmUp) = true ∧
    isNext (exec (.syncr 0x20000000 0 3 0 2) (serUp (oks 19))) = true ∧
    isNext (exec (.syncr 0x10000000 4 6 8 10) rmUp) = true ∧ isNext (exec (.fill 0 0 2 0 1) rmUp) = true ∧
    isNext (exec .probe State.reset) = true ∧ isNext (exec .remove rmUp) = true := by decide

theorem witness_ClipInv : ClipInv Config.exampleRm ⟨0, 320, 0, 480⟩ ∧ ClipInv Config.exampleRm ⟨319, 320, 479, 480⟩ := by
  unfold ClipInv; decide

theorem witness_HostWordPlacesTwoPixels :
    rmUp.memHalf 0x10000000 = some 0x1234 ∧ rmUp.memHalf (0x10000000 + 2) = some 0x5678 := by decide

end Sys2Proof.Tests
end

/-! PROOFS. The clip resolver of 43_clip_resolver.md. -/

namespace Sys2Proof.Machine

open Sys2Proof

/-! ### The inclusive end -/

/-- The 16-bit decrement of R195 does not wrap: a half-open end above some start is at least 1. -/
theorem toNat_sub_one_of_lt {a b : Half} (h : a.toNat < b.toNat) : (b - 1).toNat = b.toNat - 1 :=
  BitVec.toNat_sub_of_le (BitVec.le_def.mpr (Nat.one_le_of_lt h))

/-- The last two bytes of an address block whose end is the half-open `b` less one. -/
theorem hi_lo_sub_one_toNat {a b : Half} (h : a.toNat < b.toNat) :
    (hi (b - 1)).toNat * 256 + (lo (b - 1)).toNat = b.toNat - 1 := by
  rw [hi_lo_toNat, toNat_sub_one_of_lt h]

/-- Settles O53: each block's byte pairs are a coordinate's two halves, and the invariant keeps the decrement of the
end from wrapping. -/
theorem resolverEndIsOneLess : Obligations.ResolverEndIsOneLess := by
  intro _ c ⟨hx, _, hy, _⟩
  exact ⟨_, _, _, _, _, _, _, _, rfl, rfl, hi_lo_toNat c.x1, hi_lo_sub_one_toNat hx,
    hi_lo_toNat c.y1, hi_lo_sub_one_toNat hy⟩

end Sys2Proof.Machine

/-! PROOFS. A run of an expansion against the events that its entries stand for: what a completed run leaves in the
trace, and when a run completes. -/

namespace Sys2Proof.Machine

open Sys2Proof

/-! ### The event an entry stands for -/

/-- Whenever the operation of `s0` comes to the entry, the event it emits is `e`. -/
def Act.Sends (s0 : State) (a : Act) (e : Event) : Prop :=
  ∀ s, SameOperands s0 s → ∃ s1, a.prep s = some (s1, e)

theorem emit_sends (s0 : State) (e : Event) : (Act.emit e).Sends s0 e := fun s _ => ⟨s, rfl⟩

theorem emitRemain_sends (s0 : State) (e : Event) (m : Nat) : (Act.emitRemain e m).Sends s0 e := fun s _ => ⟨s, rfl⟩

/-- Entries that emit fixed events send these events. -/
theorem map_emit_sends (s0 : State) (es : List Event) : List.Forall₂ (Act.Sends s0) (es.map .emit) es :=
  List.forall₂_map_left_iff.2 (List.forall₂_same.2 fun e _ => emit_sends s0 e)

/-! ### Runs -/

/-- Where the sequencer stands is no operand. -/
theorem SameOperands.busy (s : State) (op : Op) (k : Nat) : SameOperands s { s with seq := .busy op k } :=
  ⟨Eq.refl _, Eq.refl _, Eq.refl _, Eq.refl _, Eq.refl _, Eq.refl _, Eq.refl _⟩

@[simp] theorem allOk_append (xs ys : List Event) : allOk (xs ++ ys) = allOk xs ++ allOk ys := List.map_append

/-- A part of an expansion that completes leaves its events in the trace. -/
theorem advanceAll_out {s0 s t : State} {op : Op} {as : List Act} {es : List Event}
    (hsend : List.Forall₂ (Act.Sends s0) as es) (hs : SameOperands s0 s) (h : advanceAll op as s = some t) :
    t.out = s.out ++ allOk es := by
  induction hsend generalizing s with
  | nil =>
    cases h
    simp [allOk]
  | @cons a e as es ha _ ih =>
    rw [advanceAll] at h
    split at h <;> try contradiction
    rename_i u hu
    obtain ⟨hsame, ⟨s1, e', hp, hout⟩, -⟩ := performAct_advanced hu
    obtain ⟨s2, hp'⟩ := ha s hs
    cases hp.symm.trans hp'
    rw [ih (hs.trans hsame) h, hout]
    simp [allOk]

/-- An entry completes when its event is infallible or is answered `ok`; the other answers stay. -/
theorem performAct_of_answersOk {op : Op} {a : Act} {s s1 : State} {e : Event} {rest : List Answer}
    (hp : a.prep s = some (s1, e)) (hans : s.AnswersOk (fallibleCount s.cfg [e]) rest) :
    ∃ t, performAct op a s = .advanced t ∧ t.answers = rest := by
  have hcfg : s1.cfg = s.cfg := by rw [prep_eq hp]
  have hanswers : s1.answers = s.answers := by rw [prep_eq hp]
  cases hf : e.fallible s.cfg.variant with
  | false =>
    have hrest : s.answers = rest := by simpa [State.AnswersOk, fallibleCount, hf] using hans
    have hemit := emit_infallible (s := s1) (hcfg ▸ hf)
    exact ⟨(a.post (s1.perform e)).advance, by simp [performAct, hp, hemit], by simp [hanswers, hrest]⟩
  | true =>
    have hrest : s1.answers = .ok :: rest := by simpa [State.AnswersOk, fallibleCount, hf, hanswers] using hans
    have hemit := emit_ok (hcfg ▸ hf) hrest
    exact ⟨(a.post (State.perform { s1 with answers := rest } e)).advance, by simp [performAct, hp, hemit], by simp⟩

/-- A part of an expansion completes when all its fallible events are answered `ok`. -/
theorem advanceAll_of_answersOk {s0 s : State} {op : Op} {as : List Act} {es : List Event} {rest : List Answer}
    (hsend : List.Forall₂ (Act.Sends s0) as es) (hs : SameOperands s0 s)
    (hans : s.AnswersOk (fallibleCount s0.cfg es) rest) :
    ∃ t, advanceAll op as s = some t ∧ t.answers = rest := by
  induction hsend generalizing s with
  | nil => exact ⟨s, rfl, hans⟩
  | @cons a e as es ha _ ih =>
    obtain ⟨s1, hp⟩ := ha s hs
    have hsplit : s.AnswersOk (fallibleCount s.cfg [e]) (List.replicate (fallibleCount s0.cfg es) .ok ++ rest) := by
      have hcount : fallibleCount s0.cfg (e :: es) = fallibleCount s0.cfg [e] + fallibleCount s0.cfg es :=
        List.countP_append (l₁ := [e])
      rw [State.AnswersOk, hcount, List.replicate_add, List.append_assoc] at hans
      rwa [hs.cfg]
    obtain ⟨u, hu, hrest⟩ := performAct_of_answersOk (op := op) hp hsplit
    rw [advanceAll_cons hu]
    exact ih (hs.trans (performAct_advanced hu).1) hrest

/-- A run that ends idle with `OK` completed its whole expansion. -/
theorem runActs_ok {op op' : Op} {k : Nat} {as : List Act} {s t : State} (hs : s.seq = .busy op' k)
    (h : runActs op as s = .next t) (hidle : t.seq = .idle) (hok : t.status = .ok) :
    ∃ u, advanceAll op as s = some u ∧ t = complete op u := by
  rcases runActs_cases op as s t h with hdone | ⟨pre, a, post, u, rfl, hu, ⟨-, rfl⟩ | habort⟩
  · exact hdone
  · obtain ⟨-, -, -, -, hq⟩ := advanceAll_spec hu
    simp [hq op' k hs] at hidle
  · obtain ⟨-, -, hne, -⟩ := performAct_aborted habort
    exact absurd hok hne

end Sys2Proof.Machine

/-! PROOFS. The chunks of 45_blit_sync.md R248 as lists of bytes. -/

namespace Sys2Proof.Machine.Expect

open Sys2Proof

@[simp] theorem pixelBytes_length (p : Nat → Half) (i k : Nat) : (pixelBytes p i k).length = 2 * k := by
  simp [pixelBytes, List.length_flatMap, Nat.mul_comm]

theorem pixelBytes_shift (p : Nat → Half) (i j k : Nat) :
    pixelBytes (fun x => p (i + x)) j k = pixelBytes p (i + j) k := by
  simp [pixelBytes, Nat.add_assoc]

theorem pixelBytes_add (p : Nat → Half) (i k l : Nat) :
    pixelBytes p i (k + l) = pixelBytes p i k ++ pixelBytes p (i + k) l := by
  simp [pixelBytes, List.range_add, List.flatMap_map, Nat.add_assoc]

/-- The quotient of R248 is Mathlib's ceiling division. -/
theorem ceilDiv_eq (n c : Nat) : ceilDiv n c = n ⌈/⌉ c := rfl

/-- A chunk has number `m` exactly when pixels are left after the `m` chunks before it. -/
theorem lt_ceilDiv_iff {c : Nat} (hc : 1 ≤ c) (n m : Nat) : m < ceilDiv n c ↔ m * c < n := by
  rw [ceilDiv_eq, ← not_le, ceilDiv_le_iff_le_mul hc, not_le, Nat.mul_comm]

@[simp] theorem chunks_length (c n : Nat) (p : Nat → Half) : (chunks c n p).length = ceilDiv n c := by
  simp [chunks]

theorem chunks_getElem? {c n m : Nat} (hm : m < ceilDiv n c) (p : Nat → Half) :
    (chunks c n p)[m]? = some (pixelBytes p (m * c) (min c (n - m * c))) := by
  simp [chunks, hm]

@[simp] theorem chunks_zero (c : Nat) (p : Nat → Half) : chunks c 0 p = [] := by
  simp [chunks, ceilDiv_eq]

/-- One chunk takes all pixels or leaves `c` fewer. -/
theorem ceilDiv_step {c n : Nat} (hc : 1 ≤ c) (hn : n ≠ 0) : ceilDiv n c = ceilDiv (n - min c n) c + 1 := by
  rcases Nat.le_total c n with hle | hle
  · rw [Nat.min_eq_left hle, ceilDiv, Nat.div_eq_sub_div hc (by omega), ceilDiv,
      show n + c - 1 - c = n - c + c - 1 by omega]
  · have hfirst : 0 < ceilDiv n c := (lt_ceilDiv_iff hc n 0).2 (by omega)
    have honly := mt (lt_ceilDiv_iff hc n 1).1 (by omega)
    rw [Nat.min_eq_right hle, Nat.sub_self, ceilDiv_eq 0, zero_ceilDiv]
    omega

/-- The first chunk, and the chunks of the pixels it leaves: how the loop of R246 makes them. -/
theorem chunks_cons {c n : Nat} (hc : 1 ≤ c) (hn : n ≠ 0) (p : Nat → Half) :
    chunks c n p = pixelBytes p 0 (min c n) :: chunks c (n - min c n) (fun j => p (min c n + j)) := by
  rw [chunks, ceilDiv_step hc hn, List.range_succ_eq_map, List.map_cons, List.map_map, chunks]
  congr 1
  · simp
  · refine List.map_congr_left fun m hm => ?_
    have hleft := (lt_ceilDiv_iff hc _ m).1 (List.mem_range.1 hm)
    have hmin : min c n = c := by omega
    simp only [Function.comp_apply, hmin, pixelBytes_shift, Nat.succ_mul]
    rw [Nat.add_comm (m * c) c, Nat.sub_sub]

/-- The chunks together carry every pixel once, in order. -/
theorem chunks_flatten {c : Nat} (hc : 1 ≤ c) (n : Nat) (p : Nat → Half) :
    (chunks c n p).flatten = pixelBytes p 0 n := by
  induction n using Nat.strong_induction_on generalizing p with
  | _ n ih =>
    rcases eq_or_ne n 0 with rfl | hn
    · simp [pixelBytes]
    · rw [chunks_cons hc hn, List.flatten_cons, ih _ (by omega), pixelBytes_shift]
      calc pixelBytes p 0 (min c n) ++ pixelBytes p (min c n + 0) (n - min c n)
          = pixelBytes p 0 (min c n + (n - min c n)) := by rw [pixelBytes_add]; simp
        _ = pixelBytes p 0 n := by congr 1; omega

/-- Every chunk but the last is full. -/
theorem chunks_full {c n m : Nat} (hc : 1 ≤ c) (p : Nat → Half) (hm : m + 1 < (chunks c n p).length) :
    ((chunks c n p)[m]?).map List.length = some (2 * c) := by
  rw [chunks_length] at hm
  have hleft : (m + 1) * c < n := (lt_ceilDiv_iff hc n _).1 hm
  rw [Nat.succ_mul] at hleft
  rw [chunks_getElem? (by omega), Option.map_some, pixelBytes_length, Nat.min_eq_left (by omega)]

/-- The last chunk carries `n mod c` pixels, or `c`. -/
theorem chunks_last {c n : Nat} (hc : 1 ≤ c) (hn : 0 < n) (p : Nat → Half) :
    ((chunks c n p).getLast?).map List.length = some (2 * if n % c = 0 then c else n % c) := by
  obtain ⟨k, hk⟩ : ∃ k, ceilDiv n c = k + 1 :=
    Nat.exists_eq_succ_of_ne_zero (Nat.ne_of_gt ((lt_ceilDiv_iff hc n 0).2 (by omega)))
  have hlo : k * c < n := (lt_ceilDiv_iff hc n k).1 (by omega)
  have hhi : n ≤ k * c + c := by
    have := mt (lt_ceilDiv_iff hc n (k + 1)).2 (by omega)
    rw [Nat.succ_mul] at this
    omega
  have hlast : min c (n - k * c) = if n % c = 0 then c else n % c := by
    have hmod : n % c = (n - k * c) % c := by
      rw [Nat.mul_comm k c, Nat.sub_mul_mod (Nat.mul_comm k c ▸ hlo.le)]
    rcases Nat.lt_or_eq_of_le (show n - k * c ≤ c by omega) with hlt | heq
    · rw [hmod, Nat.mod_eq_of_lt hlt, if_neg (by omega), Nat.min_eq_right hlt.le]
    · rw [hmod, heq, Nat.mod_self, if_pos rfl, Nat.min_self]
  rw [List.getLast?_eq_getElem?, chunks_length, hk, Nat.add_sub_cancel, chunks_getElem? (by omega), hlast,
    Option.map_some, pixelBytes_length]

end Sys2Proof.Machine.Expect

/-! PROOFS. The serial blit of 45_blit_sync.md R245 to R248: its expansion against the event list of R245, and the
chunking laws. -/

namespace Sys2Proof.Machine

open Sys2Proof

/-! ### The chunk loop -/

/-- Whatever the host's byte order, a word stored by R247 leaves with the pixel's high byte first. -/
theorem wireBytes_toWire (le : Bool) (p : Half) : wireBytes le (toWire le p) = [hi p, lo p] := by
  cases le with
  | false => rfl
  | true => exact congrArg₂ (fun a b => [a, b]) (lo_halfBE (lo p) (hi p)) (hi_halfBE (lo p) (hi p))

/-- A chunk sends the big-endian bytes of its pixels, whatever the buffer held before. -/
theorem chunk_sends {s0 : State} {p : Nat → Half} {i k : Nat}
    (hp : ∀ j, j < k → s0.memHalf (s0.fbptr + 2 * (i + j)) = some (p (i + j))) :
    (Act.chunk i k).Sends s0 (.serXfer (Expect.pixelBytes p i k)) := by
  intro s hs
  have hwords := pixelWords_eq hp
  rw [← pixelWords_congr hs] at hwords
  simp [Act.prep, fillTbuf, hwords, chunkBytes, Expect.pixelBytes, List.flatMap_map, wireBytes_toWire, hs.cfg]

/-- The loop of R246 sends the chunks of R248. -/
theorem chunkLoop_sends {s0 : State} {p : Nat → Half} {capC : Nat} (hC : 1 ≤ capC) (fuel i n : Nat)
    (hfuel : n ≤ fuel) (hp : ∀ j, j < n → s0.memHalf (s0.fbptr + 2 * (i + j)) = some (p (i + j))) :
    List.Forall₂ (Act.Sends s0) (chunkLoop capC fuel i n)
      ((Expect.chunks capC n (fun j => p (i + j))).map .serXfer) := by
  induction fuel generalizing i n with
  | zero =>
    obtain rfl : n = 0 := by omega
    simp [chunkLoop]
  | succ fuel ih =>
    rw [chunkLoop]
    split
    case isTrue hn => simp [hn]
    case isFalse hn =>
      rw [Expect.chunks_cons hC hn, List.map_cons, Expect.pixelBytes_shift]
      refine .cons (chunk_sends fun j hj => hp j (by omega)) ?_
      simp only [← Nat.add_assoc]
      exact ih _ _ (by omega) fun j hj => by
        simpa only [Nat.add_assoc] using hp (min capC n + j) (by omega)

/-! ### The expansion -/

theorem serSend_eq (c : Byte) (d : List Byte) : serSend c d = (Expect.serFrame c d).map .emit := by
  cases d <;> simp [serSend, Expect.serFrame]

/-- The events of a serial blit before its payload: the claim and the three command frames. -/
def Expect.serBlitFrames (cfg : Config) (c : Clip) : List Event :=
  .serClaim :: serFrame cfg.cmdColAddr (col c) ++ serFrame cfg.cmdRowAddr (row c) ++ serFrame cfg.cmdBulkWrite []

theorem Expect.serBlit_eq_frames (cfg : Config) (c : Clip) (n : Nat) (p : Nat → Half) :
    serBlit cfg c n p =
      serBlitFrames cfg c ++ .serDc .data :: ((chunks cfg.capC n p).map .serXfer ++ [.serRelease]) := by
  simp [serBlit, serBlitHead, serBlitFrames, serFrame]

theorem blitActs_serial {cfg : Config} (hser : cfg.variant = .ser) (c : Clip) :
    blitActs cfg c = (Expect.serBlitFrames cfg c).map .emit ++
      .emitRemain (.serDc .data) (2 * pixelCount c) ::
        (chunkLoop cfg.capC (pixelCount c) 0 (pixelCount c) ++ [Event.serRelease].map .emit) := by
  simp [blitActs, claimed, setWindow, sendCommand, sendBulkHost, serBulk, hser, serSend_eq, resolveCol, resolveRow,
    addrBlock, Expect.serBlitFrames, Expect.col, Expect.row]

/-- A serial blit sends the events of R245. -/
theorem blitActs_sends {s0 : State} {p : Nat → Half} (hser : s0.cfg.variant = .ser) (hC : 1 ≤ s0.cfg.capC)
    (hp : ∀ j, j < pixelCount s0.clip → s0.memHalf (s0.fbptr + 2 * j) = some (p j)) :
    List.Forall₂ (Act.Sends s0) (blitActs s0.cfg s0.clip)
      (Expect.serBlit s0.cfg s0.clip (pixelCount s0.clip) p) := by
  have hloop := chunkLoop_sends hC _ 0 _ le_rfl (p := p) (by simpa using hp)
  simp only [Nat.zero_add] at hloop
  rw [blitActs_serial hser, Expect.serBlit_eq_frames]
  exact List.rel_append (map_emit_sends s0 _)
    (.cons (emitRemain_sends s0 _ _) (List.rel_append hloop (map_emit_sends s0 _)))

/-- Eighteen events besides the chunks ask for an answer. -/
theorem serBlit_fallibleCount {cfg : Config} (hser : cfg.variant = .ser) (c : Clip) (n : Nat) (p : Nat → Half) :
    fallibleCount cfg (Expect.serBlit cfg c n p) = 18 + Expect.ceilDiv n cfg.capC := by
  have hchunks : ((Expect.chunks cfg.capC n p).map Event.serXfer).countP (Event.fallible .ser) =
      Expect.ceilDiv n cfg.capC := by
    rw [List.countP_eq_length.2 (by simp [Event.fallible])]
    simp
  rw [fallibleCount, hser, Expect.serBlit, List.countP_append, List.countP_append, hchunks]
  rfl

/-! ### Accepting a blit -/

theorem clipOk_iff (cfg : Config) (c : Clip) : clipOk cfg c = true ↔ ClipInv cfg c := by
  simp [clipOk, ClipInv, and_assoc]

theorem pixelCount_pos {cfg : Config} {c : Clip} (h : ClipInv cfg c) : 0 < pixelCount c := by
  obtain ⟨hx, -, hy, -⟩ := h
  exact Nat.mul_pos (by omega) (by omega)

theorem one_le_capC {cfg : Config} (hwf : cfg.wf = true) (hser : cfg.variant = .ser) : 1 ≤ cfg.capC := by
  simp [Config.wf, hser] at hwf
  omega

/-- The expansion of the operation is that of a blit; SYNC and SYNCR share it (R242). -/
def Op.ExpandsToBlit (op : Op) : Prop := ∀ s, expand s op = blitActs s.cfg s.clip

/-- On a device that is up a blit is `startBlit` with both latches loaded. -/
theorem exec_blit {s : State} {i : Instr} {fb : Nat} {c : Clip} (hready : s.Ready) (hblit : IsBlit s.cfg i fb c) :
    ∃ op : Op, op.ExpandsToBlit ∧ exec i s = startBlit op { s with fbptr := fb, clip := c } := by
  obtain ⟨hidle, hdev, hinit⟩ := hready
  have hup : s.blitReady = true := by simp [State.blitReady, hdev, hinit]
  rcases hblit with ⟨rfl, rfl⟩ | rfl
  · exact ⟨.sync, fun _ => rfl, by simp [exec, execSync, whenIdle, hidle, hup, fullClip]⟩
  · exact ⟨.syncr, fun _ => rfl, by simp [exec, execSyncr, whenIdle, hidle, hup]⟩

theorem startBlit_clipInv {op : Op} {s t : State} (h : startBlit op s = .next t) : ClipInv s.cfg s.clip := by
  rw [← clipOk_iff]
  cases hclip : clipOk s.cfg s.clip with
  | true => rfl
  | false => simp [startBlit, hclip] at h

/-- On the serial path every precondition of a blit is one of these three (R241, R74, R76). -/
theorem startBlit_serial {op : Op} {s : State} (hser : s.cfg.variant = .ser) (hclip : ClipInv s.cfg s.clip)
    (halign : s.fbptr % 2 = 0) (hread : s.readable s.fbptr (2 * pixelCount s.clip) = true) :
    startBlit op s = launch op s := by
  simp [startBlit, (clipOk_iff _ _).2 hclip, hser, sourceAlign, halign, hread]

/-! ### The run of a serial blit -/

section
variable {op : Op} {s : State} {p : Nat → Half} (hop : op.ExpandsToBlit) (hser : s.cfg.variant = .ser)
  (hC : 1 ≤ s.cfg.capC) (hp : ∀ j, j < pixelCount s.clip → s.memHalf (s.fbptr + 2 * j) = some (p j))
include hop hser hC hp

/-- With every event answered `ok` a serial blit completes. -/
theorem launch_serialBlit_completes {rest : List Answer}
    (hans : s.AnswersOk (18 + Expect.ceilDiv (pixelCount s.clip) s.cfg.capC) rest) :
    ∃ t, launch op s = .next t ∧ t.seq = .idle ∧ t.status = .ok := by
  have hsend := blitActs_sends hser hC hp
  rw [← serBlit_fallibleCount hser s.clip _ p] at hans
  obtain ⟨t, hrun, -⟩ := advanceAll_of_answersOk (op := op) hsend (SameOperands.busy s op 0) hans
  refine ⟨complete op t, ?_, rfl, rfl⟩
  rw [launch, hop]
  exact runActs_of_advanceAll hrun

/-- A serial blit that ends idle with `OK` sent the events of R245. -/
theorem launch_serialBlit_out {t : State} (h : launch op s = .next t) (hidle : t.seq = .idle) (hok : t.status = .ok) :
    t.out = s.out ++ allOk (Expect.serBlit s.cfg s.clip (pixelCount s.clip) p) := by
  rw [launch, hop] at h
  obtain ⟨u, hu, rfl⟩ := runActs_ok rfl h hidle hok
  have hout := advanceAll_out (blitActs_sends hser hC hp) (SameOperands.busy s op 0) hu
  rwa [complete_out]

end

/-! ### The transactions of R245 -/

/-- The eleven bytes of the three command frames, in sending order (R102, R245). -/
def Expect.serBlitHeadBytes (cfg : Config) (c : Clip) : List Byte :=
  cfg.cmdColAddr :: Expect.col c ++ cfg.cmdRowAddr :: Expect.row c ++ [cfg.cmdBulkWrite]

theorem Expect.serBlitHeadBytes_length (cfg : Config) (c : Clip) : (Expect.serBlitHeadBytes cfg c).length = 11 := rfl

/-- The transactions of a serial blit: every command byte its own (R154), then the chunks. -/
theorem serBlit_transfers (cfg : Config) (c : Clip) (n : Nat) (p : Nat → Half) :
    Expect.transfers (Expect.serBlit cfg c n p) =
      (Expect.serBlitHeadBytes cfg c).map ([·]) ++ Expect.chunks cfg.capC n p := by
  have hchunks : Expect.transfers ((Expect.chunks cfg.capC n p).map .serXfer) = Expect.chunks cfg.capC n p := by
    simp [Expect.transfers, List.filterMap_map]
  unfold Expect.transfers at hchunks ⊢
  rw [Expect.serBlit, List.filterMap_append, List.filterMap_append, hchunks]
  simp [Expect.serBlitHead, Expect.serFrame, Expect.serBlitHeadBytes, Expect.col, Expect.row]

/-- Settles O39: the completed run's trace is the event list of R245, whose chunks are R248's. -/
theorem serialChunkingLaws : Obligations.SerialChunkingLaws := by
  intro s i fb c p hwf hser hready hblit hp
  have hC := one_le_capC hwf hser
  obtain ⟨op, hop, hexec⟩ := exec_blit hready hblit
  let u : State := { s with fbptr := fb, clip := c }
  rw [hexec]
  refine ⟨fun rest hclip halign hans => ?_, fun t h hidle hok => ?_⟩
  · have hread := (readable_halves_iff s fb _).2 fun j hj => ⟨p j, hp j hj⟩
    rw [startBlit_serial (s := u) hser hclip halign hread]
    exact launch_serialBlit_completes (s := u) hop hser hC hp hans
  · refine ⟨_, launch_serialBlit_out (s := u) hop hser hC hp (startBlit_next h) hidle hok, ?_⟩
    have hhead : ((Expect.serBlitHeadBytes u.cfg u.clip).map ([·])).length = 11 := by
      rw [List.length_map, Expect.serBlitHeadBytes_length]
    rw [serBlit_transfers, List.take_left' hhead, List.drop_left' hhead]
    refine ⟨fun b hb => ?_, Expect.chunks_length _ _ _, fun m hm => Expect.chunks_full hC p hm,
      Expect.chunks_last hC (pixelCount_pos (startBlit_clipInv h)) p, ?_⟩
    · obtain ⟨x, -, rfl⟩ := List.mem_map.1 hb
      rfl
    · exact (Expect.chunks_flatten hC _ p).trans (by simp [Expect.pixelBytes, u])

end Sys2Proof.Machine

/-! PROOFS. PROBE of 47_lifecycle.md R285 with the panel initializer of 44_panel_initializer.md R222: its expansion
against the written-out event list, and the order of its commands and delays. -/

namespace Sys2Proof.Machine

open Sys2Proof

/-! ### The expansion -/

theorem emitInit_sends (s0 : State) (e : Event) (st : InitState) : (Act.emitInit e st).Sends s0 e := fun s _ => ⟨s, rfl⟩

theorem rmSend_eq (c : Byte) (p : List Byte) : rmSend c p = (Expect.rmFrame c p).map .emit := by
  simp [rmSend, Expect.rmFrame]

/-- A command sends its frame. The bulk-write command of a register-mapped device does so only without parameters:
these would go out as words (R132). -/
theorem sendCommand_sends (s0 : State) {cfg : Config} {c : Byte} {p : List Byte} (h : p = [] ∨ c ≠ cfg.cmdBulkWrite) :
    List.Forall₂ (Act.Sends s0) (sendCommand cfg c p) (Expect.frame cfg.variant c p) := by
  unfold sendCommand Expect.frame
  cases cfg.variant with
  | ser =>
    rw [serSend_eq]
    exact map_emit_sends s0 _
  | rm =>
    by_cases hbulk : c = cfg.cmdBulkWrite
    · obtain rfl : p = [] := h.resolve_right (not_not_intro hbulk)
      rw [if_pos hbulk, hbulk]
      exact .cons (emit_sends s0 _) (.cons (emitRemain_sends s0 _ _) (map_emit_sends s0 [.rmSel false]))
    · rw [if_neg hbulk, rmSend_eq]
      exact map_emit_sends s0 _

/-- Closing a transition changes no event. -/
theorem closing_sends {s0 : State} {as : List Act} {es : List Event} (st : InitState)
    (h : List.Forall₂ (Act.Sends s0) as es) : List.Forall₂ (Act.Sends s0) (closing st as) es := by
  induction as using closing.induct generalizing es with
  | case1 => exact h
  | case2 e =>
    cases h with
    | cons ha hr => exact .cons ha hr
  | case3 a r hlast ih =>
    cases h with
    | cons ha hr =>
      rw [closing]
      · exact .cons ha (ih hr)
      · exact hlast

/-- What R184 and R219 ask of the initializer table. -/
theorem initTable_of_wf {cfg : Config} (hwf : cfg.wf = true) :
    cfg.initTable.length = 14 ∧
      ∀ e ∈ cfg.initTable, e.params.length ≤ cfg.paramMax ∧ e.cmd ≠ cfg.cmdBulkWrite := by
  rw [Config.wf, Bool.and_eq_true] at hwf
  simpa [Config.tableWf] using hwf.2

theorem configureActs_sends (s0 : State) {cfg : Config} (hwf : cfg.wf = true) :
    List.Forall₂ (Act.Sends s0) (configureActs cfg)
      (cfg.initTable.flatMap fun e => Expect.frame cfg.variant e.cmd e.params) := by
  refine closing_sends _ (List.rel_flatten (List.forall₂_map_left_iff.2 (List.forall₂_map_right_iff.2 ?_)))
  exact List.forall₂_same.2 fun e he => sendCommand_sends s0 (.inr ((initTable_of_wf hwf).2 e he).2)

/-- The events of the bus phase of R217: the seventeen commands and the delays between them (R222). -/
def Expect.busPhase (cfg : Config) : List Event :=
  frame cfg.variant cfg.cmdSoftReset [] ++ [Event.delay 240] ++
    cfg.initTable.flatMap (fun e => frame cfg.variant e.cmd e.params) ++
    (frame cfg.variant cfg.cmdSleepExit [] ++ [Event.delay 120]) ++ frame cfg.variant cfg.cmdDisplayOn []

/-- A parameterless command and the wait that closes its transition (R213, R215). -/
theorem commandThenWait_sends (s0 : State) (cfg : Config) (c : Byte) (ms : Nat) (st : InitState) :
    List.Forall₂ (Act.Sends s0) (sendCommand cfg c [] ++ [Act.emitInit (.delay ms) st])
      (Expect.frame cfg.variant c [] ++ [Event.delay ms]) :=
  List.rel_append (sendCommand_sends s0 (.inl rfl)) (.cons (emitInit_sends s0 _ _) .nil)

theorem busPhaseActs_sends (s0 : State) {cfg : Config} (hwf : cfg.wf = true) :
    List.Forall₂ (Act.Sends s0) (busPhaseActs cfg) (Expect.busPhase cfg) := by
  have hsoft := commandThenWait_sends s0 cfg cfg.cmdSoftReset 240 .softReset
  have hsleep := commandThenWait_sends s0 cfg cfg.cmdSleepExit 120 .sleepExit
  have hdisplay := sendCommand_sends s0 (cfg := cfg) (c := cfg.cmdDisplayOn) (p := []) (.inl rfl)
  exact List.rel_append (List.rel_append (List.rel_append hsoft (configureActs_sends s0 hwf)) hsleep) hdisplay

/-- On a serial device, the claim and the release around the events of one operation (R150). -/
def Expect.claimed (cfg : Config) (es : List Event) : List Event :=
  match cfg.variant with
  | .rm => es
  | .ser => .serClaim :: es ++ [Event.serRelease]

theorem claimed_sends {s0 : State} {cfg : Config} {as : List Act} {es : List Event}
    (h : List.Forall₂ (Act.Sends s0) as es) : List.Forall₂ (Act.Sends s0) (claimed cfg as) (Expect.claimed cfg es) := by
  unfold claimed Expect.claimed
  cases cfg.variant with
  | rm => exact h
  | ser => exact .cons (emit_sends s0 _) (List.rel_append h (map_emit_sends s0 [.serRelease]))

/-- The events of the initializer with the bus phase in one piece. -/
theorem Expect.init_eq (cfg : Config) :
    init cfg = [Event.rst .asserted, .delay 10, .rst .released, .delay 120] ++ claimed cfg (busPhase cfg) ++
      [Event.delay 50, .blOn] := by
  cases hv : cfg.variant <;> simp [init, claimed, busPhase, hv]

/-- The initializer sends the events of R222. -/
theorem initActs_sends (s0 : State) {cfg : Config} (hwf : cfg.wf = true) :
    List.Forall₂ (Act.Sends s0) (initActs cfg) (Expect.init cfg) := by
  have hreset : List.Forall₂ (Act.Sends s0) hardResetActs
      [Event.rst .asserted, .delay 10, .rst .released, .delay 120] :=
    List.rel_append (map_emit_sends s0 [_, _, _]) (.cons (emitInit_sends s0 _ _) .nil)
  have hend : List.Forall₂ (Act.Sends s0) [Act.emit (.delay 50), .emitInit .blOn .displayOn]
      [Event.delay 50, .blOn] := .cons (emit_sends s0 _) (.cons (emitInit_sends s0 _ _) .nil)
  rw [Expect.init_eq]
  exact List.rel_append (List.rel_append hreset (claimed_sends (busPhaseActs_sends s0 hwf))) hend

/-- PROBE sends the events of R285. -/
theorem probeActs_sends (s0 : State) {cfg : Config} (hwf : cfg.wf = true) :
    List.Forall₂ (Act.Sends s0) (probeActs cfg) (Expect.probe cfg) := by
  have hinit := initActs_sends s0 hwf
  unfold probeActs Expect.probe
  cases cfg.variant with
  | rm => exact List.rel_append (map_emit_sends s0 [.resGet]) hinit
  | ser => exact List.rel_append (map_emit_sends s0 [.resGet, .resAlloc]) hinit

/-! ### The run -/

/-- An idle device without a record launches PROBE, under a well-formed configuration only (R184, R285, R303). -/
theorem exec_probe_next {s t : State} (hidle : s.seq = .idle) (hdev : s.devValid = false)
    (h : exec .probe s = .next t) : s.cfg.wf = true ∧ launch .probe s = .next t := by
  cases hwf : s.cfg.wf with
  | true => simpa [exec, execProbe, whenIdle, hidle, hdev, hwf] using h
  | false => simp [exec, execProbe, whenIdle, hidle, hdev, hwf] at h

/-- A PROBE that ends idle with `OK` sent exactly the events of R285. -/
theorem launch_probe_out {s t : State} (hwf : s.cfg.wf = true) (h : launch .probe s = .next t)
    (hidle : t.seq = .idle) (hok : t.status = .ok) : t.out = s.out ++ allOk (Expect.probe s.cfg) := by
  obtain ⟨u, hu, rfl⟩ := runActs_ok rfl h hidle hok
  have hout := advanceAll_out (probeActs_sends s hwf) (SameOperands.busy s .probe 0) hu
  rwa [complete_out]

/-! ### Commands and delays of the event list -/

namespace Expect

/-- A frame has one command byte, its first, whatever follows the frame. -/
theorem commandBytes_frame_append (v : Variant) (c : Byte) (p : List Byte) (es : List Event) :
    commandBytes (frame v c p ++ es) = c :: commandBytes es := by
  cases v with
  | rm =>
    have hparams : commandBytes (p.map .rmDat8 ++ .rmSel false :: es) = commandBytes es := by
      induction p with
      | nil => simp [commandBytes]
      | cons b p ih => simpa [commandBytes] using ih
    simp [frame, rmFrame, commandBytes, hparams]
  | ser =>
    have hparams : commandBytes (p.map (fun b => .serXfer [b]) ++ es) = commandBytes es := by
      induction p with
      | nil => rfl
      | cons b p ih => simpa [commandBytes] using ih
    cases p with
    | nil => simp [frame, serFrame, commandBytes]
    | cons b p => simpa [frame, serFrame, commandBytes] using hparams

theorem commandBytes_frames_append (v : Variant) (table : List InitEntry) (es : List Event) :
    commandBytes (table.flatMap (fun e => frame v e.cmd e.params) ++ es) =
      table.map (·.cmd) ++ commandBytes es := by
  induction table with
  | nil => rfl
  | cons e table ih => simp [commandBytes_frame_append, ih]

/-- R355: the command bytes of PROBE are those of the seventeen commands, in this order. -/
theorem commandBytes_probe (cfg : Config) : commandBytes (probe cfg) = (initCommands cfg).map (·.1) := by
  cases hv : cfg.variant <;>
    simp [probe, init, initCommands, hv, commandBytes, commandBytes_frame_append, commandBytes_frames_append]

@[simp] theorem delays_append (xs ys : List Event) : delays (xs ++ ys) = delays xs ++ delays ys :=
  List.filterMap_append

/-- No frame waits. -/
@[simp] theorem delays_frame (v : Variant) (c : Byte) (p : List Byte) : delays (frame v c p) = [] := by
  cases v with
  | rm => simp [frame, rmFrame, delays]
  | ser => cases p <;> simp [frame, serFrame, delays]

@[simp] theorem delays_frames (v : Variant) (table : List InitEntry) :
    delays (table.flatMap fun e => frame v e.cmd e.params) = [] := by
  induction table with
  | nil => rfl
  | cons e table ih => simp [ih]

/-- The bracket of R150 does not wait. -/
@[simp] theorem delays_claimed (cfg : Config) (es : List Event) : delays (claimed cfg es) = delays es := by
  unfold claimed
  cases cfg.variant <;> simp [delays]

/-- R213, R215: the delays between the commands. -/
@[simp] theorem delays_busPhase (cfg : Config) : delays (busPhase cfg) = [240, 120] := by
  simp only [busPhase, delays_append, delays_frame, delays_frames]
  rfl

/-- R212 to R216: the delays of the initializer. -/
theorem delays_init (cfg : Config) : delays (init cfg) = [10, 120, 240, 120, 50] := by
  simp only [init_eq, delays_append, delays_claimed, delays_busPhase]
  rfl

/-- PROBE waits in its initializer only. -/
theorem delays_probe (cfg : Config) : delays (probe cfg) = [10, 120, 240, 120, 50] := by
  rw [probe, delays_append, delays_init]
  cases cfg.variant <;> rfl

end Expect

/-- Settles O28: the completed run's trace is the event list of R222, which says the order. -/
theorem probeSendsTheDocumentedOrder : Obligations.ProbeSendsTheDocumentedOrder := by
  intro s t hidle hdev h hdone hok
  obtain ⟨hwf, hlaunch⟩ := exec_probe_next hidle hdev h
  refine ⟨Expect.probe s.cfg, launch_probe_out hwf hlaunch hdone hok, Expect.commandBytes_probe s.cfg, ?_,
    Expect.delays_probe s.cfg⟩
  rw [Expect.commandBytes_probe]
  simp [Expect.initCommands, (initTable_of_wf hwf).1]

end Sys2Proof.Machine

/-! PROOFS. Request descriptors of 30_encoding.md Part A: the decoder and the encoder are inverse to each other, and
what is no encoding is rejected. -/

namespace Sys2Proof

/-! ### Reading the formats of R92 -/

/-- Writing an address and reading it back. -/
theorem beNat_beBytes_of_addrWf {cfg : Config} {fb : Nat} (h : addrWf cfg fb = true) :
    beNat (beBytes cfg.addrBytes fb) = fb := by
  rw [beNat_beBytes, Nat.mod_eq_of_lt (of_decide_eq_true h)]

/-- An address read from a descriptor fits the bytes it was read from. -/
theorem addrWf_beNat {cfg : Config} {bs : List Byte} (h : bs.length = cfg.addrBytes) : addrWf cfg (beNat bs) = true := by
  rw [addrWf, ← h]
  exact decide_eq_true (beNat_lt bs)

theorem beBytes_addrBytes_beNat {cfg : Config} {bs : List Byte} (h : bs.length = cfg.addrBytes) :
    beBytes cfg.addrBytes (beNat bs) = bs := by
  rw [← h, beBytes_beNat]

theorem decodeZ_eq_ok {i j : Instr} {bs : List Byte} (h : decodeZ i bs = .ok j) : bs = [] ∧ j = i := by
  cases bs with
  | nil => exact ⟨rfl, (Decoded.ok.inj h).symm⟩
  | cons b bs => cases h

theorem decodeC_eq_ok {cfg : Config} {bs : List Byte} {i : Instr} (h : decodeC cfg bs = .ok i) :
    ∃ c n p, bs = c :: n :: p ∧ p.length = n.toNat ∧ n.toNat ≤ cfg.paramMax ∧ i = .cmd c p := by
  unfold decodeC at h
  split at h
  · rename_i c n p
    split at h <;> try contradiction
    rename_i hlen
    split at h <;> try contradiction
    rename_i hmax
    exact ⟨c, n, p, rfl, not_not.1 hlen, Nat.le_of_not_lt hmax, (Decoded.ok.inj h).symm⟩
  · cases h

theorem decodeS_eq_ok {cfg : Config} {bs : List Byte} {i : Instr} (h : decodeS cfg bs = .ok i) :
    bs.length = cfg.addrBytes ∧ i = .sync (beNat bs) := by
  unfold decodeS at h
  split at h
  · exact ⟨‹_›, (Decoded.ok.inj h).symm⟩
  · cases h

theorem decodeR_eq_ok {cfg : Config} {bs : List Byte} {i : Instr} (h : decodeR cfg bs = .ok i) :
    ∃ as x1 x2 y1 y2, as.length = cfg.addrBytes ∧
      bs = as ++ (halfBytes x1 ++ halfBytes x2 ++ halfBytes y1 ++ halfBytes y2) ∧
      i = .syncr (beNat as) x1 x2 y1 y2 := by
  unfold decodeR at h
  split at h
  · rename_i hlen
    split at h
    · rename_i a b c d e f g g' hdrop
      refine ⟨bs.take cfg.addrBytes, halfBE a b, halfBE c d, halfBE e f, halfBE g g', by simp [hlen], ?_,
        (Decoded.ok.inj h).symm⟩
      calc bs = bs.take cfg.addrBytes ++ bs.drop cfg.addrBytes := (List.take_append_drop _ _).symm
        _ = _ := by rw [hdrop]; simp [halfBytes]
    · cases h
  · cases h

theorem decodeF_eq_ok {bs : List Byte} {i : Instr} (h : decodeF bs = .ok i) :
    ∃ color x1 x2 y1 y2,
      bs = halfBytes color ++ halfBytes x1 ++ halfBytes x2 ++ halfBytes y1 ++ halfBytes y2 ∧
      i = .fill color x1 x2 y1 y2 := by
  unfold decodeF at h
  split at h
  · rename_i k l a b c d e f g g'
    exact ⟨halfBE k l, halfBE a b, halfBE c d, halfBE e f, halfBE g g', by simp [halfBytes],
      (Decoded.ok.inj h).symm⟩
  · cases h

/-! ### Decoder and encoder -/

theorem decode_encode {cfg : Config} {i : Instr} (h : i.wf cfg = true) : decode cfg (encode cfg i) = .ok i := by
  cases i with
  | probe => rfl
  | remove => rfl
  | cmd c p =>
    obtain ⟨hmax, hbyte⟩ : p.length ≤ cfg.paramMax ∧ p.length < 256 := by simpa [Instr.wf, paramsWf] using h
    show decodeC cfg (c :: BitVec.ofNat 8 p.length :: p) = _
    simp [decodeC, Nat.mod_eq_of_lt hbyte, Nat.not_lt.2 hmax]
  | sync fb =>
    show decodeS cfg (beBytes cfg.addrBytes fb) = _
    simp [decodeS, beNat_beBytes_of_addrWf h]
  | syncr fb x1 x2 y1 y2 =>
    show decodeR cfg (beBytes cfg.addrBytes fb ++ _) = _
    simp [decodeR, List.take_left', List.drop_left', halfBytes, beNat_beBytes_of_addrWf h]
  | fill color x1 x2 y1 y2 =>
    show decodeF [hi color, lo color, hi x1, lo x1, hi x2, lo x2, hi y1, lo y1, hi y2, lo y2] = _
    simp [decodeF]

theorem encode_of_decode {cfg : Config} {d : List Byte} {i : Instr} (h : decode cfg d = .ok i) :
    i.wf cfg = true ∧ encode cfg i = d := by
  cases d with
  | nil => cases h
  | cons op bs =>
    rw [decode] at h
    split at h
    case isTrue hop =>
      obtain ⟨rfl, rfl⟩ := decodeZ_eq_ok h
      exact ⟨rfl, by rw [hop, encode]⟩
    split at h
    case isTrue hop =>
      obtain ⟨rfl, rfl⟩ := decodeZ_eq_ok h
      exact ⟨rfl, by rw [hop, encode]⟩
    split at h
    case isTrue hop =>
      obtain ⟨c, n, p, rfl, hlen, hmax, rfl⟩ := decodeC_eq_ok h
      have hbyte := n.isLt
      exact ⟨by simp [Instr.wf, paramsWf]; omega, by rw [hop, encode, hlen, BitVec.ofNat_toNat, BitVec.setWidth_eq]⟩
    split at h
    case isTrue hop =>
      obtain ⟨hlen, rfl⟩ := decodeS_eq_ok h
      exact ⟨addrWf_beNat hlen, by rw [hop, encode, beBytes_addrBytes_beNat hlen]⟩
    split at h
    case isTrue hop =>
      obtain ⟨as, x1, x2, y1, y2, hlen, rfl, rfl⟩ := decodeR_eq_ok h
      exact ⟨addrWf_beNat hlen, by rw [hop, encode, beBytes_addrBytes_beNat hlen]⟩
    split at h
    case isTrue hop =>
      obtain ⟨color, x1, x2, y1, y2, rfl, rfl⟩ := decodeF_eq_ok h
      exact ⟨rfl, by rw [hop, encode]⟩
    cases h

/-- Settles O1: each format reads back what the encoder wrote. -/
theorem decodeEncodeRoundTrip : Obligations.DecodeEncodeRoundTrip :=
  fun _ _ => decode_encode

/-- Settles O2: by the format that accepted the descriptor. -/
theorem decodedDescriptorIsTheEncoding : Obligations.DecodedDescriptorIsTheEncoding :=
  fun _ _ _ => encode_of_decode

/-- Settles O3: an accepted descriptor is an encoding, whose length is plain. -/
theorem descriptorLengthByFormat : Obligations.DescriptorLengthByFormat := by
  intro cfg d i h
  obtain ⟨hwf, rfl⟩ := encode_of_decode h
  cases i with
  | probe => rfl
  | remove => rfl
  | cmd c p =>
    obtain ⟨-, hbyte⟩ : p.length ≤ cfg.paramMax ∧ p.length < 256 := by simpa [Instr.wf, paramsWf] using hwf
    exact ⟨by simp [encode]; omega, by simp [encode, Nat.mod_eq_of_lt hbyte]⟩
  | sync fb => simp [encode, Config.addrBytes]; omega
  | syncr fb x1 x2 y1 y2 => simp [encode, Config.addrBytes]; omega
  | fill color x1 x2 y1 y2 => rfl

/-- Settles O6: each descriptor is small enough to decode by computing. -/
theorem sampleDescriptorsDecode : Obligations.SampleDescriptorsDecode := by
  refine ⟨?_, ?_, ?_, ?_, ?_, ?_⟩ <;> decide

end Sys2Proof

namespace Sys2Proof.Machine

open Sys2Proof

/-! ### Rejected descriptors (R95, R97) -/

/-- A descriptor that decodes to no instruction is consumed and rejected. -/
theorem step_of_undecodable {s : State} {d : List Byte} {rest : List (List Byte)} (hidle : s.seq = .idle)
    (hreqs : s.reqs = d :: rest) (h : ∀ i, decode s.cfg d ≠ .ok i) :
    step s = .next { s with reqs := rest, status := .badRequest } := by
  cases hd : decode s.cfg d with
  | ok i => exact absurd hd (h i)
  | error e => simp [step, hidle, hreqs, hd, State.reject]

/-- Settles O4: the operation code of an accepted descriptor is that of its instruction, 1 to 6. -/
theorem reservedOpIsBadRequest : Obligations.ReservedOpIsBadRequest := by
  intro s op bs rest hidle hreqs hop
  refine step_of_undecodable hidle hreqs fun i hi => ?_
  have hhead : (encode s.cfg i).head? = some op := congrArg List.head? (encode_of_decode hi).2
  cases i <;> obtain rfl := Option.some.inj hhead <;> revert hop <;> decide

/-- Settles O5: an accepted descriptor has the length its operation code and count byte give it. -/
theorem malformedDescriptorIsBadRequest : Obligations.MalformedDescriptorIsBadRequest := by
  intro s d rest hidle hreqs hbad
  refine step_of_undecodable hidle hreqs fun i hi => ?_
  have hlen := descriptorLengthByFormat s.cfg d i hi
  obtain ⟨hwf, rfl⟩ := encode_of_decode hi
  cases i with
  | cmd c p =>
    obtain ⟨hmax, hbyte⟩ : p.length ≤ s.cfg.paramMax ∧ p.length < 256 := by simpa [Instr.wf, paramsWf] using hwf
    simp [encode, opCmd, Nat.mod_eq_of_lt hbyte] at hbad
    omega
  | _ => simp_all [encode, opProbe, opRemove, opSync, opSyncr, opFill]

end Sys2Proof.Machine

/-! PROOFS. The event alphabet of 20_memory.md R66 and the abort of 60_exceptions.md R306. -/

namespace Sys2Proof.Machine

open Sys2Proof

/-! ### Events -/

/-- Settles O45: event by event. -/
theorem fallibleEventsAreThoseOfR67 : Obligations.FallibleEventsAreThoseOfR67 := by
  intro v e
  cases e <;> simp [Event.fallible]

/-- Settles O46: each row of R66 is the event's own clause of `Event.apply`. -/
theorem eventWritesTheStateOfR66 : Obligations.EventWritesTheStateOfR66 := by
  intro s
  have hget : s.perform .resGet =
      { s with linesValid := s.linesValid || decide (s.cfg.variant = .ser), out := s.out ++ [⟨.resGet, true⟩] } := by
    cases hv : s.cfg.variant <;> simp [State.perform, State.record, Event.apply, hv]
  exact ⟨fun _ => rfl, fun _ => rfl, fun _ => rfl, fun _ => rfl, rfl, rfl, fun _ => rfl, fun _ => rfl, fun _ => rfl,
    fun _ => rfl, rfl, hget, ⟨s.freshTbuf, by simp [State.freshTbuf], rfl⟩, rfl, rfl⟩

/-! ### The abort -/

/-- The guaranteed release, whole (R161). -/
theorem releaseIfHeld_eq (s : State) :
    s.releaseIfHeld = { s with
      busHeld := false, out := s.out ++ if s.busHeld then [⟨.serRelease, true⟩] else [] } := by
  unfold State.releaseIfHeld
  split
  case isTrue hheld => simp [State.perform, State.record, Event.apply, hheld]
  case isFalse hfree => cases s; simp_all

@[simp] theorem takeAbort_answers (op : Op) (k : Status) (s : State) : (takeAbort op k s).answers = s.answers := by
  cases op <;> simp [takeAbort, destroyRecord_eq]

/-- An entry whose event is answered with a failure aborts the operation. -/
theorem performAct_fail {op : Op} {act : Act} {s s1 : State} {e : Event} {a : Answer} {rest : List Answer}
    (hp : act.prep s = some (s1, e)) (hf : e.fallible s.cfg.variant = true) (hans : s.answers = a :: rest)
    (hne : a ≠ .ok) :
    performAct op act s = .aborted (takeAbort op (e.failStatus a) (State.record { s1 with answers := rest } e false)) := by
  have hs1 := prep_eq hp
  have hemit : emit e s1 = .failed (e.failStatus a) (State.record { s1 with answers := rest } e false) :=
    emit_fail (by rwa [hs1]) (by rwa [hs1]) hne
  simp [performAct, hp, hemit]

/-- An entry whose event is not answered waits. -/
theorem performAct_waiting {op : Op} {act : Act} {s s1 : State} {e : Event}
    (hp : act.prep s = some (s1, e)) (hf : e.fallible s.cfg.variant = true) (hans : s.answers = []) :
    performAct op act s = .waiting := by
  have hs1 := prep_eq hp
  have hemit : emit e s1 = .waiting := emit_waiting (by rwa [hs1]) (by rwa [hs1])
  simp [performAct, hp, hemit]

theorem step_busy {s : State} {op : Op} {k : Nat} (hs : s.seq = .busy op k) : step s = seqStep s := by
  simp [step, hs]

/-- Settles O47: the step at a failed event is the abort, whose two forms are known whole. -/
theorem abortEffects : Obligations.AbortEffects := by
  intro s s1 op k act e a rest hs hact hp hf hans hne
  rw [step_busy hs, seqStep_at hs hact, performAct_fail hp hf hans hne]
  have hs1 := prep_eq hp
  have hheld : s1.busHeld = s.busHeld := by rw [hs1]
  have htbuf : s1.tbufValid = s.tbufValid := by rw [hs1]
  have hlines : s1.linesValid = s.linesValid := by rw [hs1]
  have hout : s1.out = s.out := by rw [hs1]
  by_cases hop : op = .probe
  · subst hop
    simp only [takeAbort_probe, destroyRecord_eq, releaseIfHeld_eq, State.record, hheld, htbuf, hlines, hout,
      if_true]
    cases e <;> rfl
  · simp only [takeAbort_eq hop, releaseIfHeld_eq, State.record, hheld, hout, if_neg hop]
    cases e <;> rfl

end Sys2Proof.Machine

/-! PROOFS. The sequencer of 10_state.md R23 and R24: what one step can do, and the run of an operation against it. -/

namespace Sys2Proof.Machine

open Sys2Proof

/-! ### One step of the sequencer -/

/-- A next state of the sequencer is a completion, or what the entry at the position does. -/
theorem seqStep_next {s t : State} {op : Op} {k : Nat} (hs : s.seq = .busy op k) (h : seqStep s = .next t) :
    ((expand s op).length ≤ k ∧ t = complete op s) ∨
    ∃ a, (expand s op)[k]? = some a ∧
      ((performAct op a s = .waiting ∧ t = s) ∨ performAct op a s = .aborted t ∨ performAct op a s = .advanced t) := by
  rcases Nat.lt_or_ge k (expand s op).length with hk | hk
  · have ha := List.getElem?_eq_getElem hk
    refine .inr ⟨_, ha, ?_⟩
    rw [seqStep_at hs ha] at h
    split at h
    · exact .inl ⟨‹_›, (Host.Outcome.next.inj h).symm⟩
    · cases h
    · obtain rfl := Host.Outcome.next.inj h
      exact .inr (.inl ‹_›)
    · obtain rfl := Host.Outcome.next.inj h
      exact .inr (.inr ‹_›)
  · rw [seqStep_end hs hk] at h
    exact .inl ⟨hk, (Host.Outcome.next.inj h).symm⟩

/-- One step of the sequencer keeps the operands and the pending requests. -/
theorem seqStep_same {s t : State} {op : Op} {k : Nat} (hs : s.seq = .busy op k) (h : seqStep s = .next t) :
    SameOperands s t := by
  rcases seqStep_next hs h with ⟨-, rfl⟩ | ⟨a, -, ⟨-, rfl⟩ | habort | hadv⟩
  · exact complete_same op s
  · exact .rfl
  · exact (performAct_aborted habort).1
  · exact (performAct_advanced hadv).1

/-- Settles O7: the three branches of a step. -/
theorem stepRunsTheDecodedInstruction : Obligations.StepRunsTheDecodedInstruction := by
  refine ⟨fun s d rest i hidle hreqs hdec => ?_, fun s hidle hreqs => ?_, fun s op k hs => step_busy hs⟩
  · simp [step, hidle, hreqs, hdec]
  · simp [step, hidle, hreqs]

/-- Settles O9: the entry waits, and a wait changes nothing. -/
theorem unansweredEventHangs : Obligations.UnansweredEventHangs := by
  intro s s1 op k a e hs ha hp hf hans
  rw [step_busy hs, seqStep_at hs ha, performAct_waiting hp hf hans]

theorem exec_busy {s : State} {op : Op} {k : Nat} (hs : s.seq = .busy op k) (i : Instr) :
    exec i s = .fault .requestWhileBusy := by
  cases i <;> simp [exec, execProbe, execRemove, execCmd, execSync, execSyncr, execFill, whenIdle, hs]

/-- Settles O10: every meaning asks for an idle sequencer, and a step in flight keeps the pending requests. -/
theorem oneRequestAtATime : Obligations.OneRequestAtATime :=
  fun _ _ _ hs => ⟨exec_busy hs, fun _ h => (seqStep_same hs (step_busy hs ▸ h)).reqs⟩

/-- The abort's own events are releases, all completed. -/
theorem takeAbort_appends_releases (op : Op) (k : Status) (s : State) :
    ∃ tail, (takeAbort op k s).out = s.out ++ tail ∧
      ∀ y ∈ tail, y.ok = true ∧ (y.ev = .serRelease ∨ y.ev = .resFree ∨ y.ev = .resPut) := by
  rw [takeAbort_out, List.append_assoc]
  refine ⟨_, rfl, fun y hy => ?_⟩
  have hmem : y = ⟨.serRelease, true⟩ ∨ y = ⟨.resFree, true⟩ ∨ y = ⟨.resPut, true⟩ := by
    rcases List.mem_append.1 hy with hy | hy
    · exact .inl (by revert hy; split <;> simp)
    · refine .inr ?_
      revert hy
      split
      · simp only [List.mem_append]
        rintro (hy | hy)
        · exact .inl (by revert hy; split <;> simp)
        · exact .inr (by revert hy; split <;> simp)
      · simp
  rcases hmem with rfl | rfl | rfl <;> simp

/-- Settles O8: the three things that performing the entry at the position can give. -/
theorem sequencerStepEmitsOneEvent : Obligations.SequencerStepEmitsOneEvent := by
  intro s t op k hs h
  rw [step_busy hs] at h
  constructor
  · rintro rfl
    rw [seqStep_end hs le_rfl] at h
    obtain rfl := Host.Outcome.next.inj h
    exact ⟨complete_seq _ _, complete_status _ _, complete_out _ _⟩
  intro hk
  have ha := List.getElem?_eq_getElem hk
  rw [seqStep_at hs ha] at h
  generalize (expand s op)[k] = a at ha h
  rcases performAct_cases op a s with ⟨-, hres⟩ | ⟨s1, e, hp, hcases⟩
  · rw [hres] at h
    cases h
  have hs1 := prep_eq hp
  refine ⟨a, s1, e, ha, hp, ?_⟩
  have hmoved : ∀ u : State, u.seq = s.seq → (a.post (u.perform e)).advance =
      { a.post (u.perform e) with seq := .busy op (k + 1) } := fun u hu =>
    advance_eq _ op k (by rw [post_seq, perform_seq, hu, hs])
  rcases hcases with ⟨hf, hans, hres⟩ | ⟨hf, x, rest, hans, hne, hres⟩ | ⟨hf, hres⟩ | ⟨hf, rest, hans, hres⟩ <;>
    rw [hres] at h <;> obtain rfl := Host.Outcome.next.inj h
  · exact .inl ⟨hf, hans, rfl⟩
  · obtain ⟨tail, hout, htail⟩ :=
      takeAbort_appends_releases op (e.failStatus x) (State.record { s1 with answers := rest } e false)
    refine .inr (.inr ⟨x, rest, tail, hf, hans, hne, rfl, failStatus_ne_ok x e, by simp, ?_, htail⟩)
    rw [hout, hs1]
    simp
  · have hsame : { s1 with answers := s.answers } = s1 := by rw [hs1]
    refine .inr (.inl ⟨s.answers, by simp [hf], ?_, ?_⟩)
    · rw [hsame, hmoved s1 (by rw [hs1])]
    · simp
      rw [hs1]
  · refine .inr (.inl ⟨rest, by simp [hf, hans], hmoved { s1 with answers := rest } (by rw [hs1]), ?_⟩)
    simp
    rw [hs1]

/-! ### The run of an operation -/

/-- The next state of an accepted request: a completion, a wait or an abort, each after a first part of the
expansion that completed. -/
theorem launch_next {op : Op} {s t : State} (h : launch op s = .next t) :
    (∃ u, advanceAll op (expand s op) { s with seq := .busy op 0 } = some u ∧ t = complete op u) ∨
    ∃ pre a post u, expand s op = pre ++ a :: post ∧
      advanceAll op pre { s with seq := .busy op 0 } = some u ∧ u.seq = .busy op pre.length ∧
      (expand u op)[pre.length]? = some a ∧
      ((performAct op a u = .waiting ∧ t = u) ∨ performAct op a u = .aborted t) := by
  rcases runActs_cases op _ _ _ h with hdone | ⟨pre, a, post, u, hsplit, hu, hend⟩
  · exact .inl hdone
  · obtain ⟨hsame, -, -, -, hseq⟩ := advanceAll_spec hu
    refine .inr ⟨pre, a, post, u, hsplit, hu, by simpa using hseq op 0 rfl, ?_, hend⟩
    rw [expand_congr ((SameOperands.busy s op 0).trans hsame), hsplit]
    simp

/-- Settles O11: a run from position 0 is the sequencer iterated. -/
theorem execIsTheSequencerIterated : Obligations.ExecIsTheSequencerIterated := by
  intro i s t h
  obtain ⟨-, ⟨k, rfl, hk⟩ | hlaunch⟩ := exec_next h
  · exact .inl ⟨rfl, hk⟩
  have hexpand := expand_congr (SameOperands.busy (s.latched i) (s.opOf i) 0) (s.opOf i)
  obtain ⟨n, hn, hiter⟩ := runActs_is_seqIter _ { s.latched i with seq := .busy (s.opOf i) 0 } 0 t rfl
    (by rw [List.drop_zero, hexpand]) hlaunch
  refine .inr ⟨n, hn, hiter, ?_⟩
  rcases launch_next hlaunch with ⟨u, -, rfl⟩ | ⟨pre, a, post, u, hsplit, -, hseq, -, ⟨-, rfl⟩ | habort⟩
  · exact .inl (complete_seq _ _)
  · exact .inr ⟨pre.length, by simp [hsplit], hseq⟩
  · exact .inl (performAct_aborted habort).2.1

/-- Settles O12: where a run neither completes nor aborts, its next entry waits, and then it waits again. -/
theorem operationEndsOrAwaitsAnAnswer : Obligations.OperationEndsOrAwaitsAnAnswer := by
  intro i s t h
  obtain ⟨hidle, ⟨k, rfl, -⟩ | hlaunch⟩ := exec_next h
  · exact .inl hidle
  rcases launch_next hlaunch with ⟨u, -, rfl⟩ | ⟨pre, a, post, u, -, -, hseq, ha, ⟨hwait, rfl⟩ | habort⟩
  · exact .inl (complete_seq _ _)
  · have hans : t.answers = [] := by
      rcases performAct_cases (s.opOf i) a t with ⟨-, hres⟩ | ⟨s1, e, -, ⟨-, hans, -⟩ | ⟨-, x, r, -, -, hres⟩ | ⟨-, hres⟩ |
        ⟨-, r, -, hres⟩⟩
      case inr.inl => exact hans
      all_goals simp [hres] at hwait
    exact .inr ⟨hans, by rw [step_busy hseq, seqStep_at hseq ha, hwait]⟩
  · exact .inl (performAct_aborted habort).2.1

/-! ### What every step only reads -/

/-- Host memory, configuration and pending requests stay, the trace grows, answers are taken from the front. -/
structure OnlyReads (s t : State) : Prop where
  mem : t.mem = s.mem
  cfg : t.cfg = s.cfg
  reqs : t.reqs = s.reqs
  out : ∃ ext, t.out = s.out ++ ext
  answers : ∃ used, s.answers = used ++ t.answers

theorem OnlyReads.trans {s t u : State} (h : OnlyReads s t) (g : OnlyReads t u) : OnlyReads s u := by
  obtain ⟨x, hx⟩ := h.out
  obtain ⟨y, hy⟩ := g.out
  obtain ⟨a, ha⟩ := h.answers
  obtain ⟨b, hb⟩ := g.answers
  exact ⟨g.mem.trans h.mem, g.cfg.trans h.cfg, g.reqs.trans h.reqs, ⟨x ++ y, by simp [hy, hx]⟩,
    ⟨a ++ b, by simp [ha, hb]⟩⟩

theorem SameOperands.onlyReads {s t : State} (h : SameOperands s t) (hout : ∃ ext, t.out = s.out ++ ext)
    (hans : ∃ used, s.answers = used ++ t.answers) : OnlyReads s t :=
  ⟨h.mem, h.cfg, h.reqs, hout, hans⟩

theorem OnlyReads.rfl {s : State} : OnlyReads s s := SameOperands.rfl.onlyReads ⟨[], by simp⟩ ⟨[], by simp⟩

theorem complete_onlyReads (op : Op) (s : State) : OnlyReads s (complete op s) :=
  (complete_same op s).onlyReads ⟨[], by simp⟩ ⟨[], by simp⟩

theorem advanceAll_onlyReads {op : Op} {as : List Act} {s t : State} (h : advanceAll op as s = some t) :
    OnlyReads s t := by
  obtain ⟨hsame, ⟨es, hout, -⟩, hans, -, -⟩ := advanceAll_spec h
  exact hsame.onlyReads ⟨_, hout⟩ hans

theorem aborted_onlyReads {op : Op} {a : Act} {s t : State} (h : performAct op a s = .aborted t) : OnlyReads s t := by
  obtain ⟨hsame, -, -, s1, e, ans, rest, hp, hans, -, rfl⟩ := performAct_aborted h
  obtain ⟨tail, hout, -⟩ :=
    takeAbort_appends_releases op (e.failStatus ans) (State.record { s1 with answers := rest } e false)
  refine hsame.onlyReads ⟨⟨e, false⟩ :: tail, ?_⟩ ⟨[ans], by simp [hans]⟩
  rw [hout, prep_eq hp]
  simp

theorem advanced_onlyReads {op : Op} {a : Act} {s t : State} (h : performAct op a s = .advanced t) : OnlyReads s t := by
  obtain ⟨hsame, ⟨s1, e, -, hout⟩, hans, -, -⟩ := performAct_advanced h
  exact hsame.onlyReads ⟨_, hout⟩ hans

theorem seqStep_onlyReads {s t : State} {op : Op} {k : Nat} (hs : s.seq = .busy op k) (h : seqStep s = .next t) :
    OnlyReads s t := by
  rcases seqStep_next hs h with ⟨-, rfl⟩ | ⟨a, -, ⟨-, rfl⟩ | habort | hadv⟩
  · exact complete_onlyReads op s
  · exact .rfl
  · exact aborted_onlyReads habort
  · exact advanced_onlyReads hadv

theorem exec_onlyReads {i : Instr} {s t : State} (h : exec i s = .next t) : OnlyReads s t := by
  obtain ⟨-, ⟨k, rfl, -⟩ | hlaunch⟩ := exec_next h
  · exact ⟨rfl, rfl, rfl, ⟨[], by simp⟩, ⟨[], by simp⟩⟩
  have hstart : OnlyReads s { s.latched i with seq := .busy (s.opOf i) 0 } :=
    ⟨by simp, by simp, by simp, ⟨[], by simp⟩, ⟨[], by simp⟩⟩
  rcases launch_next hlaunch with ⟨u, hu, rfl⟩ | ⟨pre, a, post, u, -, hu, -, -, ⟨-, rfl⟩ | habort⟩
  · exact (hstart.trans (advanceAll_onlyReads hu)).trans (complete_onlyReads _ _)
  · exact hstart.trans (advanceAll_onlyReads hu)
  · exact (hstart.trans (advanceAll_onlyReads hu)).trans (aborted_onlyReads habort)

/-- A next state of a step: the machine waits, rejects a descriptor, runs an instruction, or steps the sequencer. -/
theorem step_next {s t : State} (h : step s = .next t) :
    (∃ op k, s.seq = .busy op k ∧ seqStep s = .next t) ∨
    (s.seq = .idle ∧ (t = s ∨ ∃ d rest, s.reqs = d :: rest ∧
      (t = State.reject { s with reqs := rest } .badRequest ∨ ∃ i, exec i { s with reqs := rest } = .next t))) := by
  unfold step at h
  split at h
  · exact .inl ⟨_, _, ‹_›, h⟩
  · refine .inr ⟨‹_›, ?_⟩
    split at h
    · exact .inl (Host.Outcome.next.inj h).symm
    · refine .inr ⟨_, _, ‹_›, ?_⟩
      split at h
      · exact .inl (Host.Outcome.next.inj h).symm
      · exact .inr ⟨_, h⟩

/-- Settles O19: from what each kind of step only reads. -/
theorem stepOnlyReadsItsInputs : Obligations.StepOnlyReadsItsInputs := by
  intro s t h
  have conclude : ∀ s' : State, s'.mem = s.mem → s'.cfg = s.cfg → s'.out = s.out → s'.answers = s.answers →
      (s'.reqs = s.reqs ∨ ∃ d, s.reqs = d :: s'.reqs) → OnlyReads s' t →
      t.mem = s.mem ∧ t.cfg = s.cfg ∧ (∀ a, t.memByte a = s.memByte a) ∧ (∃ ext, t.out = s.out ++ ext) ∧
        (∃ used, s.answers = used ++ t.answers) ∧ (t.reqs = s.reqs ∨ ∃ d, s.reqs = d :: t.reqs) := by
    intro s' hmem hcfg hout hans hreqs hread
    exact ⟨hread.mem.trans hmem, hread.cfg.trans hcfg, memByte_congr (hread.cfg.trans hcfg) (hread.mem.trans hmem),
      hout ▸ hread.out, hans ▸ hread.answers, hread.reqs ▸ hreqs⟩
  rcases step_next h with ⟨op, k, hs, hseq⟩ | ⟨-, rfl | ⟨d, rest, hreqs, rfl | ⟨i, hexec⟩⟩⟩
  · exact conclude s rfl rfl rfl rfl (.inl rfl) (seqStep_onlyReads hs hseq)
  · exact conclude t rfl rfl rfl rfl (.inl rfl) .rfl
  · exact conclude { s with reqs := rest } rfl rfl rfl rfl (.inr ⟨d, hreqs⟩)
      ⟨rfl, rfl, rfl, ⟨[], by simp⟩, ⟨[], by simp⟩⟩
  · exact conclude { s with reqs := rest } rfl rfl rfl rfl (.inr ⟨d, hreqs⟩) (exec_onlyReads hexec)

end Sys2Proof.Machine

/-! PROOFS. Requests that are not accepted: the rejections of 60_exceptions.md R303 and the refusals of
93_implementation_defined.md U3, U4, U7. -/

namespace Sys2Proof.Machine

open Sys2Proof

/-! ### The checks of R303 -/

/-- The code with which an idle device rejects an instruction, if it does (R303). -/
def State.rejection (s : State) : Instr → Option Status
  | .probe => if s.devValid then some .notReady else none
  | .remove => none
  | .cmd _ p =>
    if s.cfg.paramMax < p.length then some .badRequest else if s.devValid then none else some .notReady
  | .sync _ => if s.blitReady then none else some .notReady
  | .syncr _ _ _ _ _ => if s.blitReady then none else some .notReady
  | .fill _ _ _ _ _ =>
    if s.blitReady then (if s.cfg.variant = .ser then some .unsupported else none) else some .notReady

theorem whenIdle_idle {s : State} (hidle : s.seq = .idle) (body : Host.Outcome State Fault Refusal) :
    whenIdle s body = body := by simp [whenIdle, hidle]

/-- A rejected request changes `STATUS` alone. -/
theorem exec_rejects {s : State} {i : Instr} {k : Status} (hidle : s.seq = .idle) (h : s.rejection i = some k) :
    exec i s = .next { s with status := k } := by
  cases i with
  | probe =>
    rw [State.rejection] at h
    split at h <;> cases h
    simp [exec, execProbe, whenIdle_idle hidle, State.reject, *]
  | remove => cases h
  | cmd c p =>
    rw [State.rejection] at h
    split at h <;> try split at h
    all_goals cases h
    all_goals simp [exec, execCmd, whenIdle_idle hidle, State.deviceUp, State.reject, *]
  | sync fb =>
    rw [State.rejection] at h
    split at h <;> cases h
    simp [exec, execSync, whenIdle_idle hidle, State.reject, *]
  | syncr fb x1 x2 y1 y2 =>
    rw [State.rejection] at h
    split at h <;> cases h
    simp [exec, execSyncr, whenIdle_idle hidle, State.reject, *]
  | fill color x1 x2 y1 y2 =>
    rw [State.rejection] at h
    split at h <;> try split at h
    all_goals cases h
    all_goals simp [exec, execFill, whenIdle_idle hidle, State.reject, *]

/-- A request that is not rejected and has a next state was launched with its latches loaded. -/
theorem exec_launches {s t : State} {i : Instr} (h : s.rejection i = none) (hexec : exec i s = .next t) :
    launch (s.opOf i) (s.latched i) = .next t := by
  obtain ⟨hidle, -⟩ := exec_next hexec
  cases i with
  | probe =>
    have hdev : s.devValid = false := by simpa [State.rejection] using h
    exact (exec_probe_next hidle hdev hexec).2
  | remove => exact (whenIdle_idle hidle _).symm.trans hexec
  | cmd c p =>
    rw [State.rejection] at h
    split at h <;> try split at h
    all_goals cases h
    rw [exec, execCmd, whenIdle_idle hidle, if_neg ‹_›, State.deviceUp, if_neg (by simp [*])] at hexec
    split at hexec
    · cases hexec
    · exact hexec
  | sync fb =>
    have hup : s.blitReady = true := by simpa [State.rejection] using h
    simp only [exec, execSync, whenIdle_idle hidle, hup] at hexec
    exact startBlit_next hexec
  | syncr fb x1 x2 y1 y2 =>
    have hup : s.blitReady = true := by simpa [State.rejection] using h
    simp only [exec, execSyncr, whenIdle_idle hidle, hup] at hexec
    exact startBlit_next hexec
  | fill color x1 x2 y1 y2 =>
    have hup : s.blitReady = true ∧ s.cfg.variant ≠ .ser := by
      rw [State.rejection] at h
      split at h <;> try split at h
      all_goals simp_all
    simp only [exec, execFill, whenIdle_idle hidle, hup, Bool.not_true, Bool.false_eq_true, if_false] at hexec
    unfold startFill at hexec
    split at hexec
    · cases hexec
    split at hexec
    · cases hexec
    exact hexec

theorem blitReady_iff (s : State) : s.blitReady = true ↔ s.devValid = true ∧ s.initState = .displayOn := by
  simp [State.blitReady]

theorem State.Ready.blitReady {s : State} (h : s.Ready) : s.blitReady = true := (blitReady_iff s).2 h.2

/-- Settles O20: the state check of each request. -/
theorem wrongStateIsNotReady : Obligations.WrongStateIsNotReady := by
  intro s hidle
  refine ⟨fun hdev => exec_rejects hidle (by simp [State.rejection, hdev]),
    fun hdev c p hp => exec_rejects hidle (by simp [State.rejection, hdev, Nat.not_lt.2 hp]), fun hdown => ?_⟩
  rw [← blitReady_iff] at hdown
  exact ⟨fun _ => exec_rejects hidle (by simp [State.rejection, hdown]),
    fun _ _ _ _ _ => exec_rejects hidle (by simp [State.rejection, hdown]),
    fun _ _ _ _ _ => exec_rejects hidle (by simp [State.rejection, hdown])⟩

/-- Settles O21: the variant check comes after the state check. -/
theorem serialFillIsUnsupported : Obligations.SerialFillIsUnsupported :=
  fun _ _ _ _ _ _ hready hser => exec_rejects hready.1 (by simp [State.rejection, hready.blitReady, hser])

/-- Settles O22: the parameter check comes first. -/
theorem tooManyParametersIsBadRequest : Obligations.TooManyParametersIsBadRequest :=
  fun _ _ _ hidle hp => exec_rejects hidle (by simp [State.rejection, hp])

/-- Settles O30: PROBE checks the configuration once there is no device. -/
theorem illFormedConfigIsRefused : Obligations.IllFormedConfigIsRefused := by
  intro s hidle hdev hwf
  simp [exec, execProbe, whenIdle_idle hidle, hdev, hwf]

/-! ### The preconditions of a blit and of a fill -/

/-- On a ready register-mapped device a FILL is `startFill` with both latches loaded. -/
theorem exec_fill {s : State} (hready : s.Ready) (hrm : s.cfg.variant = .rm) (color : Half) (c : Clip) :
    exec (.fill color c.x1 c.x2 c.y1 c.y2) s = startFill { s with color := color, clip := c } := by
  simp [exec, execFill, whenIdle_idle hready.1, hready.blitReady, hrm]

theorem clipOk_eq_false {cfg : Config} {c : Clip} (h : ¬ ClipInv cfg c) : clipOk cfg c = false :=
  Bool.eq_false_iff.2 (mt (clipOk_iff cfg c).1 h)

theorem clipOk_eq_true {cfg : Config} {c : Clip} (h : ClipInv cfg c) : clipOk cfg c = true := (clipOk_iff cfg c).2 h

/-- Settles O23: the clip rectangle is looked at first. -/
theorem badClipIsRefused : Obligations.BadClipIsRefused := by
  intro s c hready hclip
  refine ⟨fun fb => ?_, fun hrm color => ?_⟩
  · obtain ⟨op, -, hexec⟩ := exec_blit (i := .syncr fb c.x1 c.x2 c.y1 c.y2) (fb := fb) (c := c) hready (.inr rfl)
    simp [hexec, startBlit, clipOk_eq_false hclip]
  · simp [exec_fill hready hrm, startFill, clipOk_eq_false hclip]

/-- Settles O24: the bulk length is looked at next, on all three paths. -/
theorem oddBulkLengthIsRefused : Obligations.OddBulkLengthIsRefused := by
  intro s hready hrm
  refine ⟨fun i fb c hblit hclip hodd => ?_, fun color c hclip hodd => ?_, fun p hmax hp => ?_⟩
  · obtain ⟨op, -, hexec⟩ := exec_blit hready hblit
    simp [hexec, startBlit, clipOk_eq_true hclip, hrm, hodd]
  · simp [exec_fill hready hrm, startFill, clipOk_eq_true hclip, hodd]
  · simp [exec, execCmd, whenIdle_idle hready.1, Nat.not_lt.2 hmax, State.deviceUp, hready.2.1, takesWidePath, hrm, hp]

theorem sourceAlign_eq (v : Variant) : sourceAlign v = if v = .rm then 4 else 2 := by cases v <;> rfl

/-- A blit whose rectangle and length are in order comes to the checks of its source buffer (R74, R76). -/
theorem startBlit_source {op : Op} {s : State} (hclip : ClipInv s.cfg s.clip)
    (heven : s.cfg.variant = .rm → pixelCount s.clip % 2 = 0) :
    startBlit op s =
      if s.fbptr % (if s.cfg.variant = .rm then 4 else 2) ≠ 0 then .refused .sourceMisaligned
      else if !s.readable s.fbptr (2 * pixelCount s.clip) then .refused .sourceUnreadable
      else launch op s := by
  have hlen : (decide (s.cfg.variant = .rm) && decide (pixelCount s.clip % 2 ≠ 0)) = false := by
    simpa using heven
  simp only [startBlit, clipOk_eq_true hclip, hlen, sourceAlign_eq, Bool.not_true, Bool.false_eq_true, if_false]

/-- Settles O25: alignment, then readability byte by byte. -/
theorem badSourceBufferIsRefused : Obligations.BadSourceBufferIsRefused := by
  intro s i fb c hready hblit hclip heven
  obtain ⟨op, -, hexec⟩ := exec_blit hready hblit
  let u : State := { s with fbptr := fb, clip := c }
  rw [hexec, startBlit_source (s := u) hclip heven]
  refine ⟨fun hmis => if_pos hmis, fun halign ⟨j, hj, hnone⟩ => ?_⟩
  have hunread : u.readable fb (2 * pixelCount c) = false := by
    refine Bool.eq_false_iff.2 fun hread => ?_
    obtain ⟨b, hb⟩ := (readable_iff u _ _).1 hread j hj
    exact absurd (hb.symm.trans hnone) (by simp)
  rw [if_neg (not_not_intro halign), hunread]
  rfl

end Sys2Proof.Machine

/-! PROOFS. Operand arithmetic and the ports: 43_clip_resolver.md R198, 20_memory.md R71 and R72, 10_state.md R38. -/

namespace Sys2Proof.Machine

open Sys2Proof

/-! ### The addressed window -/

/-- The inclusive width or height that an address block names, for a half-open range. -/
theorem addrBlock_extent {a b : Half} (h : a.toNat < b.toNat) :
    beNat ((addrBlock a (b - 1)).drop 2) - beNat ((addrBlock a (b - 1)).take 2) + 1 = b.toNat - a.toNat := by
  have hstart : beNat ((addrBlock a (b - 1)).take 2) = a.toNat := by
    rw [← hi_lo_toNat a]
    simp [addrBlock, beNat]
  have hend : beNat ((addrBlock a (b - 1)).drop 2) = b.toNat - 1 := by
    rw [← hi_lo_sub_one_toNat h]
    simp [addrBlock, beNat]
  omega

/-- Settles O54: width times height, each at least 1. -/
theorem windowHoldsThePayload : Obligations.WindowHoldsThePayload := by
  intro cfg c hclip
  have hpos := pixelCount_pos hclip
  obtain ⟨hx, -, hy, -⟩ := hclip
  exact ⟨hpos, by rw [resolveCol, resolveRow, addrBlock_extent hx, addrBlock_extent hy, pixelCount]⟩

/-! ### Byte order -/

theorem memHalf_eq_some {s : State} {a : Nat} {p : Half} (h : s.memHalf a = some p) :
    ∃ b0 b1, s.memByte a = some b0 ∧ s.memByte (a + 1) = some b1 ∧ p = hostHalf s.cfg.hostLE b0 b1 := by
  unfold State.memHalf at h
  split at h
  · exact ⟨_, _, ‹_›, ‹_›, (Option.some.inj h).symm⟩
  · cases h

/-- Four bytes packed are two pixels side by side (R70, R71). -/
theorem pack32_eq (le : Bool) (b0 b1 b2 b3 : Byte) :
    pack32 le b0 b1 b2 b3 =
      if le then hostHalf le b2 b3 ++ hostHalf le b0 b1 else hostHalf le b0 b1 ++ hostHalf le b2 b3 := by
  cases le with
  | true => exact BitVec.append_assoc (x₁ := b3 ++ b2) (x₂ := b1) (x₃ := b0)
  | false => exact BitVec.append_assoc (x₁ := b0 ++ b1) (x₂ := b2) (x₃ := b3)

/-- The word at an address is made of the two pixels there, placed by the host's byte order (R71). -/
theorem memWord_of_memHalf {s : State} {a : Nat} {p q : Half} (hp : s.memHalf a = some p)
    (hq : s.memHalf (a + 2) = some q) : s.memWord a = some (if s.cfg.hostLE then q ++ p else p ++ q) := by
  obtain ⟨b0, b1, h0, h1, rfl⟩ := memHalf_eq_some hp
  obtain ⟨b2, b3, h2, h3, rfl⟩ := memHalf_eq_some hq
  simp only [State.memWord, h0, h1, h2, h3, pack32_eq]

/-- Settles O55: the word is the two pixels side by side. -/
theorem hostWordPlacesTwoPixels : Obligations.HostWordPlacesTwoPixels := by
  intro s a p q hp hq
  refine ⟨_, memWord_of_memHalf hp hq, ?_⟩
  split
  · exact ⟨BitVec.extractLsb'_append_eq_right, BitVec.extractLsb'_append_eq_left⟩
  · exact ⟨BitVec.extractLsb'_append_eq_left, BitVec.extractLsb'_append_eq_right⟩

/-- Settles O56: storing and sending swap the bytes twice on a little-endian host, never on a big-endian one. -/
theorem bufferWordLeavesBigEndian : Obligations.BufferWordLeavesBigEndian := wireBytes_toWire

/-! ### Register writes -/

theorem ctrlValue_testBit (cfg : Config) (v : Bool) (b : Nat) :
    (ctrlValue cfg v).testBit b = if b = cfg.selectBit then v else cfg.ctrlOther.testBit b := by
  unfold ctrlValue
  by_cases hb : b = cfg.selectBit
  · subst hb
    split <;> cases v <;> simp_all [Nat.testBit_xor]
  · split <;> simp [Nat.testBit_xor, Ne.symm hb]

/-- Settles O57: the control value bit by bit, the other writes by their definition. -/
theorem registerWritesFollowR38 : Obligations.RegisterWritesFollowR38 := by
  intro cfg
  refine ⟨fun v => ⟨ctrlValue cfg v, rfl, ?_, fun b hb => ?_⟩, fun _ => rfl, fun _ => rfl, fun _ => rfl⟩
  · rw [ctrlValue_testBit, if_pos rfl]
  · rw [ctrlValue_testBit, if_neg hb]

end Sys2Proof.Machine

/-! PROOFS. What the entries of an expansion write, apart from the trace, the answers and the position of the
sequencer: the whole state after a part of an expansion that completes. -/

namespace Sys2Proof.Machine

open Sys2Proof

/-! ### The effect of an entry -/

/-- The state with another trace, other answers and another position of the sequencer. -/
def State.logged (s : State) (out : List Entry) (answers : List Answer) (seq : SeqPos) : State :=
  { s with out := out, answers := answers, seq := seq }

@[simp] theorem logged_logged (s : State) (o o' : List Entry) (as as' : List Answer) (q q' : SeqPos) :
    (s.logged o as q).logged o' as' q' = s.logged o' as' q' := rfl

/-- Neither the trace nor the answers nor the position are operands. -/
theorem sameOperands_logged (s : State) (o : List Entry) (as : List Answer) (q : SeqPos) :
    SameOperands s (s.logged o as q) :=
  ⟨Eq.refl _, Eq.refl _, Eq.refl _, Eq.refl _, Eq.refl _, Eq.refl _, Eq.refl _⟩

/-- What an entry writes when its event completes, the trace, the answers and `SEQ` left out. -/
def Act.effect (a : Act) (s : State) : State :=
  match a.prep s with
  | none => s
  | some (s1, e) => a.post (e.apply s1)

/-- What a list of entries writes, one after the other. -/
def effects (as : List Act) (s : State) : State := as.foldl (fun s a => a.effect s) s

@[simp] theorem effects_nil (s : State) : effects [] s = s := rfl
@[simp] theorem effects_cons (a : Act) (as : List Act) (s : State) :
    effects (a :: as) s = effects as (a.effect s) := rfl
@[simp] theorem effects_append (as bs : List Act) (s : State) :
    effects (as ++ bs) s = effects bs (effects as s) := List.foldl_append

@[simp] theorem effect_emit (e : Event) (s : State) : (Act.emit e).effect s = e.apply s := rfl
@[simp] theorem effect_emitInit (e : Event) (st : InitState) (s : State) :
    (Act.emitInit e st).effect s = { e.apply s with initState := st } := rfl
@[simp] theorem effect_emitRemain (e : Event) (m : Nat) (s : State) :
    (Act.emitRemain e m).effect s = { e.apply s with remain := m } := rfl
@[simp] theorem effect_word (w : Word) (s : State) : (Act.word w).effect s = { s with remain := s.remain - 4 } := rfl

theorem apply_logged (e : Event) (s : State) (o : List Entry) (as : List Answer) (q : SeqPos) :
    e.apply (s.logged o as q) = (e.apply s).logged o as q := by
  cases e with
  | resGet => cases hv : s.cfg.variant <;> simp [Event.apply, State.logged, hv]
  | _ => rfl

theorem prep_logged (a : Act) (s : State) (o : List Entry) (as : List Answer) (q : SeqPos) :
    a.prep (s.logged o as q) = (a.prep s).map fun x => (x.1.logged o as q, x.2) := by
  cases a with
  | wordHost j =>
    have hmem : (s.logged o as q).memWord (s.fbptr + 4 * j) = s.memWord (s.fbptr + 4 * j) := rfl
    simp only [Act.prep, show (s.logged o as q).fbptr = s.fbptr from rfl, hmem, Option.map_map]
    rfl
  | chunk i k =>
    have hwords : pixelWords (s.logged o as q) i k = pixelWords s i k :=
      pixelWords_congr (sameOperands_logged s o as q) i k
    simp only [Act.prep, fillTbuf, hwords, Option.map_map]
    rfl
  | _ => rfl

theorem effect_logged (a : Act) (s : State) (o : List Entry) (as : List Answer) (q : SeqPos) :
    a.effect (s.logged o as q) = (a.effect s).logged o as q := by
  simp only [Act.effect, prep_logged]
  cases a.prep s with
  | none => rfl
  | some x =>
    simp only [Option.map_some, apply_logged]
    cases a <;> rfl

theorem effects_logged (l : List Act) (s : State) (o : List Entry) (as : List Answer) (q : SeqPos) :
    effects l (s.logged o as q) = (effects l s).logged o as q := by
  induction l generalizing s with
  | nil => rfl
  | cons a l ih => rw [effects_cons, effect_logged, ih, effects_cons]

/-- An entry that completes writes its effect. -/
theorem performAct_advanced_effect {op : Op} {a : Act} {s t : State} (h : performAct op a s = .advanced t) :
    t = (a.effect s).logged t.out t.answers t.seq := by
  have advanced : ∀ (s1 : State) (e : Event) (as : List Answer), a.prep s = some (s1, e) →
      t = (a.post (State.perform { s1 with answers := as } e)).advance →
      t = (a.effect s).logged t.out t.answers t.seq := by
    intro s1 e as hp ht
    have hperform : State.perform { s1 with answers := as } e =
        (e.apply s1).logged (s1.out ++ [⟨e, true⟩]) as s1.seq := apply_logged e s1 _ _ _
    have hadvance : ∀ u : State, u.advance = u.logged u.out u.answers u.advance.seq := by
      intro u
      unfold State.advance
      split <;> rfl
    have hpost : ∀ (u : State) o as q, a.post (u.logged o as q) = (a.post u).logged o as q := by
      intro u o as q
      cases a <;> rfl
    rw [hperform, hpost, hadvance] at ht
    simp only [Act.effect, hp]
    rw [ht]
    rfl
  rcases performAct_cases op a s with ⟨-, h1⟩ | ⟨s1, e, hp, ⟨-, -, h1⟩ | ⟨-, x, r, -, -, h1⟩ | ⟨-, h1⟩ | ⟨-, r, ha, h1⟩⟩ <;>
    rw [h] at h1
  case inr.inr.inr.inl => exact advanced s1 e s1.answers hp (ActResult.advanced.inj h1)
  case inr.inr.inr.inr => exact advanced s1 e r hp (ActResult.advanced.inj h1)
  all_goals cases h1

/-- A part of an expansion that completes writes its effects. -/
theorem advanceAll_effects {op : Op} {as : List Act} {s t : State} (h : advanceAll op as s = some t) :
    t = (effects as s).logged t.out t.answers t.seq := by
  induction as generalizing s with
  | nil =>
    cases h
    rfl
  | cons a as ih =>
    rw [advanceAll] at h
    split at h <;> try contradiction
    rename_i u hu
    have hstep := performAct_advanced_effect hu
    have hrest := ih h
    rw [hstep, effects_logged] at hrest
    rw [effects_cons, hrest]
    rfl

/-- A part of an expansion all of whose events complete: the whole state. -/
theorem advanceAll_completes {s : State} {op : Op} {as : List Act} {es : List Event} {rest : List Answer}
    {k : Nat} (hsend : List.Forall₂ (Act.Sends s) as es) (hans : s.AnswersOk (fallibleCount s.cfg es) rest) :
    advanceAll op as { s with seq := .busy op k } =
      some ((effects as s).logged (s.out ++ allOk es) rest (.busy op (k + as.length))) := by
  have hsame := SameOperands.busy s op k
  obtain ⟨t, ht, hrest⟩ := advanceAll_of_answersOk (op := op) (s := { s with seq := .busy op k }) hsend hsame hans
  have hout := advanceAll_out hsend hsame ht
  obtain ⟨-, -, -, -, hseq⟩ := advanceAll_spec ht
  have heff := advanceAll_effects ht
  have hstart : effects as { s with seq := .busy op k } = (effects as s).logged s.out s.answers (.busy op k) :=
    effects_logged as s _ _ _
  rw [hout, hrest, hseq op k rfl, hstart, logged_logged] at heff
  rw [ht, heff]

/-- An operation all of whose events complete: the whole next state. -/
theorem launch_completes {s : State} {op : Op} {es : List Event} {rest : List Answer}
    (hsend : List.Forall₂ (Act.Sends s) (expand s op) es) (hans : s.AnswersOk (fallibleCount s.cfg es) rest)
    (hidle : s.seq = .idle) :
    launch op s = .next ((complete op (effects (expand s op) s)).logged (s.out ++ allOk es) rest s.seq) := by
  rw [launch, runActs_of_advanceAll (advanceAll_completes hsend hans), hidle]
  cases op <;> rfl

end Sys2Proof.Machine

/-! PROOFS. The effects of the two transports' frames (40_register_mapped_transport.md, 41_serial_transport.md) and of
the payload loops. -/

namespace Sys2Proof.Machine

open Sys2Proof

/-! ### Frames -/

/-- Parameter bytes write nothing, on either transport. -/
theorem effects_map_rmDat8 (p : List Byte) (s : State) : effects (p.map fun b => .emit (.rmDat8 b)) s = s := by
  induction p with
  | nil => rfl
  | cons b p ih => exact ih

theorem effects_map_serXfer (p : List Byte) (s : State) : effects (p.map fun b => .emit (.serXfer [b])) s = s := by
  induction p with
  | nil => rfl
  | cons b p ih => exact ih

theorem effects_rmSend (c : Byte) (p : List Byte) (s : State) :
    effects (rmSend c p) s = { s with select := .written false } := by
  simp [rmSend, effects_map_rmDat8, Event.apply]

theorem effects_serSend (c : Byte) (d : List Byte) (s : State) :
    effects (serSend c d) s = { s with mode := .driven (if d = [] then .command else .data) } := by
  cases d with
  | nil => rfl
  | cons b d =>
    simp only [serSend, effects_append, effects_cons, effects_map_serXfer]
    rfl

/-- The wide frame around words that leave the select bit alone. -/
theorem effects_rmBulk (cfg : Config) (m r : Nat) {words : List Act} (s : State)
    (hwords : ∀ u : State, u.cfg = s.cfg → u.mem = s.mem → u.fbptr = s.fbptr →
      effects words u = { u with remain := u.remain - r }) :
    effects (rmBulk cfg m words) s = { s with select := .written false, remain := m - r } := by
  have hpayload := hwords { s with select := .written true, remain := m } rfl rfl rfl
  have hframe : effects (rmBulk cfg m words) s =
      { effects words { s with select := .written true, remain := m } with select := .written false } := by
    rw [rmBulk, effects_append, effects_append]
    rfl
  rw [hframe, hpayload]

theorem effects_words (ws : List Word) (s : State) :
    effects (ws.map .word) s = { s with remain := s.remain - 4 * ws.length } := by
  induction ws generalizing s with
  | nil => rfl
  | cons w ws ih =>
    rw [List.map_cons, effects_cons, ih, List.length_cons, Nat.mul_succ, Nat.add_comm, ← Nat.sub_sub]
    rfl

theorem effects_rmBulkInline (cfg : Config) (p : List Byte) (s : State) :
    effects (rmBulkInline cfg p) s =
      { s with select := .written false, remain := p.length - 4 * (inlineWords cfg.hostLE p).length } :=
  effects_rmBulk cfg _ _ s fun u _ _ _ => effects_words _ u

theorem rmBulkFill_eq (cfg : Config) (color : Half) (m : Nat) :
    rmBulkFill cfg color m = rmBulk cfg m ((List.replicate (m / 4) (fillWord color)).map .word) := by
  rw [rmBulkFill, List.map_replicate]

theorem effects_rmBulkFill (cfg : Config) (color : Half) (m : Nat) (s : State) :
    effects (rmBulkFill cfg color m) s = { s with select := .written false, remain := m - 4 * (m / 4) } := by
  rw [rmBulkFill_eq]
  exact effects_rmBulk cfg _ _ s fun u _ _ _ => by rw [effects_words, List.length_replicate]

theorem effect_wordHost {j : Nat} {s : State} {w : Word} (h : s.memWord (s.fbptr + 4 * j) = some w) :
    (Act.wordHost j).effect s = { s with remain := s.remain - 4 } := by
  simp [Act.effect, Act.prep, h, Event.apply, Act.post]

theorem effects_wordHosts {s : State} {w : Nat → Word} (n : Nat)
    (h : ∀ j, j < n → s.memWord (s.fbptr + 4 * j) = some (w j)) :
    effects ((List.range n).map .wordHost) s = { s with remain := s.remain - 4 * n } := by
  induction n with
  | zero => rfl
  | succ n ih =>
    have hword : (Act.wordHost n).effect { s with remain := s.remain - 4 * n } =
        { s with remain := s.remain - 4 * n - 4 } := effect_wordHost (h n (by omega))
    rw [List.range_succ, List.map_append, effects_append, ih fun j hj => h j (by omega), List.map_singleton,
      effects_cons, effects_nil, hword, Nat.sub_sub, Nat.mul_succ]

theorem effects_rmBulkHost {s : State} {w : Nat → Word} (cfg : Config) (m : Nat)
    (h : ∀ j, j < m / 4 → s.memWord (s.fbptr + 4 * j) = some (w j)) :
    effects (rmBulkHost cfg m) s = { s with select := .written false, remain := m - 4 * (m / 4) } := by
  refine effects_rmBulk cfg _ _ s fun u hcfg hmem hfb => ?_
  rw [← List.map_eq_map]
  exact effects_wordHosts _ fun j hj => by rw [memWord_congr hcfg hmem, hfb]; exact h j hj

/-- A command on a register-mapped device. -/
theorem effects_sendCommand_rm {cfg : Config} (hrm : cfg.variant = .rm) (c : Byte) (p : List Byte) (s : State) :
    effects (sendCommand cfg c p) s = { s with
      select := .written false,
      remain := if c = cfg.cmdBulkWrite then p.length - 4 * (inlineWords cfg.hostLE p).length else s.remain } := by
  simp only [sendCommand, hrm]
  split
  · exact effects_rmBulkInline cfg p s
  · exact effects_rmSend c p s

theorem effects_sendCommand_ser {cfg : Config} (hser : cfg.variant = .ser) (c : Byte) (p : List Byte) (s : State) :
    effects (sendCommand cfg c p) s = { s with mode := .driven (if p = [] then .command else .data) } := by
  simp only [sendCommand, hser]
  exact effects_serSend c p s

/-- The addressing commands differ from the bulk-write command (R6). -/
theorem addressing_ne_bulk {cfg : Config} (hwf : cfg.wf = true) :
    cfg.cmdColAddr ≠ cfg.cmdBulkWrite ∧ cfg.cmdRowAddr ≠ cfg.cmdBulkWrite := by
  simp only [Config.wf, Bool.and_eq_true, decide_eq_true_eq] at hwf
  exact ⟨hwf.1.1.2, hwf.1.2⟩

theorem effects_setWindow_rm {cfg : Config} (hwf : cfg.wf = true) (hrm : cfg.variant = .rm) (c : Clip) (s : State) :
    effects (setWindow cfg c) s = { s with select := .written false } := by
  obtain ⟨hcol, hrow⟩ := addressing_ne_bulk hwf
  simp [setWindow, effects_sendCommand_rm hrm, hcol, hrow]

theorem effects_setWindow_ser {cfg : Config} (hser : cfg.variant = .ser) (c : Clip) (s : State) :
    effects (setWindow cfg c) s = { s with mode := .driven .data } := by
  simp [setWindow, effects_sendCommand_ser hser, resolveRow, addrBlock]

/-- The claim and the release around the entries of a serial operation. -/
theorem effects_claimed_ser {cfg : Config} (hser : cfg.variant = .ser) (as : List Act) (s : State) :
    effects (claimed cfg as) s = { effects as { s with busHeld := true } with busHeld := false } := by
  simp only [claimed, hser, effects_append, effects_cons, effects_nil, effect_emit]
  rfl

/-! ### The chunk loop -/

/-- The buffer after a chunk of `k` pixels from index `i` on. -/
def Expect.tbufChunk (le : Bool) (p : Nat → Half) (i k : Nat) (tb : List Half) : List Half :=
  (List.range k).map (fun j => toWire le (p (i + j))) ++ tb.drop k

theorem Expect.tbufChunk_shift (le : Bool) (p : Nat → Half) (i j k : Nat) (tb : List Half) :
    tbufChunk le (fun x => p (i + x)) j k tb = tbufChunk le p (i + j) k tb := by
  simp [tbufChunk, Nat.add_assoc]

theorem Expect.tbufAfter_eq (cfg : Config) (n : Nat) (p : Nat → Half) (tb : List Half) :
    tbufAfter cfg n p tb = (List.range (ceilDiv n cfg.capC)).foldl
      (fun tb m => tbufChunk cfg.hostLE p (m * cfg.capC) (min cfg.capC (n - m * cfg.capC)) tb) tb := rfl

/-- The first chunk overwrites the buffer, then the chunks of the pixels it leaves do. -/
theorem Expect.tbufAfter_step {cfg : Config} (hC : 1 ≤ cfg.capC) {n : Nat} (hn : n ≠ 0) (p : Nat → Half)
    (tb : List Half) :
    tbufAfter cfg n p tb =
      tbufAfter cfg (n - min cfg.capC n) (fun j => p (min cfg.capC n + j))
        (tbufChunk cfg.hostLE p 0 (min cfg.capC n) tb) := by
  rw [tbufAfter_eq, tbufAfter_eq, ceilDiv_step hC hn, List.range_succ_eq_map, List.foldl_cons, List.foldl_map,
    Nat.zero_mul, Nat.sub_zero]
  refine List.foldl_ext _ _ _ fun tb m hm => ?_
  have hleft := (lt_ceilDiv_iff hC _ m).1 (List.mem_range.1 hm)
  have hmin : min cfg.capC n = cfg.capC := by omega
  rw [hmin, tbufChunk_shift, Nat.succ_mul, Nat.add_comm, Nat.sub_sub]

theorem effect_chunk {s : State} {p : Nat → Half} {i k : Nat}
    (hp : ∀ j, j < k → s.memHalf (s.fbptr + 2 * (i + j)) = some (p (i + j))) :
    (Act.chunk i k).effect s =
      { s with tbuf := Expect.tbufChunk s.cfg.hostLE p i k s.tbuf, remain := s.remain - 2 * k } := by
  simp [Act.effect, Act.prep, fillTbuf, pixelWords_eq hp, Event.apply, Act.post, Expect.tbufChunk]

theorem effects_chunkLoop {s : State} {p : Nat → Half} (hC : 1 ≤ s.cfg.capC) (fuel i n : Nat)
    (hfuel : n ≤ fuel) (hp : ∀ j, j < n → s.memHalf (s.fbptr + 2 * (i + j)) = some (p (i + j))) :
    effects (chunkLoop s.cfg.capC fuel i n) s =
      { s with tbuf := Expect.tbufAfter s.cfg n (fun j => p (i + j)) s.tbuf, remain := s.remain - 2 * n } := by
  induction fuel generalizing s i n with
  | zero =>
    obtain rfl : n = 0 := by omega
    simp [chunkLoop, Expect.tbufAfter, Expect.ceilDiv_eq]
  | succ fuel ih =>
    rw [chunkLoop]
    split
    case isTrue hn =>
      subst hn
      simp [Expect.tbufAfter, Expect.ceilDiv_eq]
    case isFalse hn =>
      rw [effects_cons, effect_chunk fun j hj => hp j (by omega)]
      have hrest := ih (s := { s with
        tbuf := Expect.tbufChunk s.cfg.hostLE p i (min s.cfg.capC n) s.tbuf,
        remain := s.remain - 2 * min s.cfg.capC n }) hC (i + min s.cfg.capC n) (n - min s.cfg.capC n) (by omega)
        (fun j hj => by
          rw [Nat.add_assoc]
          exact hp (min s.cfg.capC n + j) (by omega))
      rw [hrest, Expect.tbufAfter_step hC hn]
      simp only [Expect.tbufChunk, Nat.zero_add, Nat.add_assoc, Nat.sub_sub, ← Nat.mul_add]
      rw [show min s.cfg.capC n + (n - min s.cfg.capC n) = n by omega]

/-- The header, one mode-select to data, the chunks: everything is sent, and `REMAIN` is 0 (R246). -/
theorem effects_serBulk {s : State} {p : Nat → Half} (hC : 1 ≤ s.cfg.capC) (n : Nat)
    (hp : ∀ j, j < n → s.memHalf (s.fbptr + 2 * j) = some (p j)) :
    effects (serBulk s.cfg n) s =
      { s with mode := .driven .data, tbuf := Expect.tbufAfter s.cfg n p s.tbuf, remain := 0 } := by
  have hheader : effects (serSend s.cfg.cmdBulkWrite [] ++ [.emitRemain (.serDc .data) (2 * n)]) s =
      { s with mode := .driven .data, remain := 2 * n } := by
    rw [effects_append, effects_serSend]
    rfl
  have hloop := effects_chunkLoop (s := { s with mode := .driven .data, remain := 2 * n }) (p := p) hC n 0 n le_rfl
    (fun j hj => (Nat.zero_add j).symm ▸ hp j hj)
  simp only [Nat.zero_add, Nat.sub_self] at hloop
  rw [serBulk, effects_append, hheader, hloop]

end Sys2Proof.Machine

/-! PROOFS. CMD, SYNC, SYNCR and FILL that complete: the whole next state (42_command_encoder.md, 45_blit_sync.md,
46_solid_fill.md). -/

namespace Sys2Proof.Machine

open Sys2Proof

/-! ### Events of a register-mapped device -/

/-- The register writes, none of which can fail (R67). -/
def Event.isRegisterWrite : Event → Bool
  | .rmSel _ | .rmCmd8 _ | .rmDat8 _ | .rmDat32 _ => true
  | _ => false

theorem fallibleCount_registerWrites {cfg : Config} {es : List Event} (h : ∀ e ∈ es, e.isRegisterWrite = true) :
    fallibleCount cfg es = 0 := by
  refine List.countP_eq_zero.2 fun e he => ?_
  have hwrite := h e he
  cases e <;> simp_all [Event.isRegisterWrite, Event.fallible]

theorem rmFrame_registerWrites (c : Byte) (p : List Byte) :
    ∀ e ∈ Expect.rmFrame c p, e.isRegisterWrite = true := by
  simp +contextual [Expect.rmFrame, Event.isRegisterWrite, or_imp]

theorem rmWide_registerWrites (c : Byte) (ws : List Word) :
    ∀ e ∈ Expect.rmWide c ws, e.isRegisterWrite = true := by
  simp +contextual [Expect.rmWide, Event.isRegisterWrite, or_imp]

theorem rmBlit_registerWrites (cfg : Config) (c : Clip) (ws : List Word) :
    ∀ e ∈ Expect.rmBlit cfg c ws, e.isRegisterWrite = true := by
  intro e he
  rcases List.mem_append.1 he with he | he
  · rcases List.mem_append.1 he with he | he
    · exact rmFrame_registerWrites _ _ e he
    · exact rmFrame_registerWrites _ _ e he
  · exact rmWide_registerWrites _ _ e he

/-- No answer is needed, and none is consumed. -/
theorem answersOk_registerWrites (s : State) {es : List Event} (h : ∀ e ∈ es, e.isRegisterWrite = true) :
    s.AnswersOk (fallibleCount s.cfg es) s.answers := by
  rw [fallibleCount_registerWrites h]
  rfl

/-- The wide frame sends its words. -/
theorem rmBulk_sends {s0 : State} {words : List Act} {ws : List Word} (cfg : Config) (m : Nat)
    (h : List.Forall₂ (Act.Sends s0) words (ws.map .rmDat32)) :
    List.Forall₂ (Act.Sends s0) (rmBulk cfg m words) (Expect.rmWide cfg.cmdBulkWrite ws) :=
  .cons (emit_sends s0 _) (.cons (emitRemain_sends s0 _ _) (List.rel_append h (map_emit_sends s0 [.rmSel false])))

theorem words_sends (s0 : State) (ws : List Word) :
    List.Forall₂ (Act.Sends s0) (ws.map .word) (ws.map .rmDat32) :=
  List.forall₂_map_left_iff.2 (List.forall₂_map_right_iff.2 (List.forall₂_same.2 fun _ _ s _ => ⟨s, rfl⟩))

/-! ### CMD -/

/-- What R180 and R133 ask of a CMD that is not rejected. -/
theorem exec_cmd {s : State} {c : Byte} {p : List Byte} (hidle : s.seq = .idle) (hdev : s.devValid = true)
    (hmax : p.length ≤ s.cfg.paramMax) (hwide : takesWidePath s.cfg c = true → p.length % 4 = 0) :
    exec (.cmd c p) s = launch .cmd (s.latched (.cmd c p)) := by
  have hlen : (takesWidePath s.cfg c && decide (p.length % 4 ≠ 0)) = false := by
    simpa using hwide
  rw [exec, execCmd, whenIdle_idle hidle, if_neg (Nat.not_lt.2 hmax), State.deviceUp, if_neg (by simp [hdev]), hlen]
  rfl

/-- The frame in flight holds the operands. -/
theorem expand_latched_cmd (s : State) (c : Byte) (p : List Byte) :
    expand (s.latched (.cmd c p)) .cmd = claimed s.cfg (sendCommand s.cfg c p) := by
  simp [expand, cmdActs, State.latched, Frame.params]

/-- Settles O33: the narrow frame and its effect. -/
theorem cmdCompletesNarrow : Obligations.CmdCompletesNarrow := by
  intro s c p hrm hidle hdev hmax hbulk
  let u := s.latched (.cmd c p)
  have hacts : expand u .cmd = rmSend c p := by
    rw [expand_latched_cmd]
    simp [claimed, sendCommand, hrm, hbulk]
  have hsend : List.Forall₂ (Act.Sends u) (expand u .cmd) (Expect.rmFrame c p) := by
    rw [hacts, rmSend_eq]
    exact map_emit_sends u _
  rw [exec_cmd hidle hdev hmax (by simp [takesWidePath, hbulk]),
    launch_completes hsend (answersOk_registerWrites u (rmFrame_registerWrites c p)) hidle, hacts, effects_rmSend]
  rfl

/-- The words of an inline payload by index (R133 case (i)). -/
theorem inlineWords_eq (le : Bool) {p : List Byte} (h : p.length % 4 = 0) :
    inlineWords le p = (List.range (p.length / 4)).map fun j =>
      pack32 le (p.getD (4 * j) 0) (p.getD (4 * j + 1) 0) (p.getD (4 * j + 2) 0) (p.getD (4 * j + 3) 0) := by
  induction p using inlineWords.induct with
  | case1 b0 b1 b2 b3 r ih =>
    simp only [List.length_cons] at h
    have hlen : (b0 :: b1 :: b2 :: b3 :: r).length / 4 = r.length / 4 + 1 := by
      simp only [List.length_cons]
      omega
    rw [hlen, List.range_succ_eq_map, inlineWords, ih (by omega)]
    simp [Function.comp_def, Nat.mul_succ]
  | case2 p hshort =>
    have hp : p = [] := by
      rcases p with _ | ⟨b0, _ | ⟨b1, _ | ⟨b2, _ | ⟨b3, r⟩⟩⟩⟩
      · rfl
      · simp at h
      · simp at h
      · simp at h
      · exact absurd rfl (hshort b0 b1 b2 b3 r)
    subst hp
    rfl

/-- Settles O34: the wide frame around the words of the inline payload. -/
theorem cmdCompletesWide : Obligations.CmdCompletesWide := by
  intro s p hrm hidle hdev hmax hp
  let u := s.latched (.cmd s.cfg.cmdBulkWrite p)
  have hacts : expand u .cmd = rmBulkInline s.cfg p := by
    rw [expand_latched_cmd]
    simp [claimed, sendCommand, hrm]
  have hsend : List.Forall₂ (Act.Sends u) (expand u .cmd)
      (Expect.rmWide s.cfg.cmdBulkWrite (inlineWords s.cfg.hostLE p)) := by
    rw [hacts]
    exact rmBulk_sends s.cfg _ (words_sends u _)
  have hremain : p.length - 4 * (p.length / 4) = 0 := by omega
  rw [exec_cmd hidle hdev hmax (fun _ => hp),
    launch_completes hsend (answersOk_registerWrites u (rmWide_registerWrites _ _)) hidle, hacts, effects_rmBulkInline,
    inlineWords_eq _ hp, List.length_map, List.length_range, hremain]
  rfl

theorem claimed_serSend {cfg : Config} (hser : cfg.variant = .ser) (c : Byte) (p : List Byte) :
    claimed cfg (serSend c p) = (Event.serClaim :: Expect.serFrame c p ++ [Event.serRelease]).map .emit := by
  simp [claimed, hser, serSend_eq]

/-- Every event of a serial frame can fail. -/
theorem serFrame_fallible {cfg : Config} (hser : cfg.variant = .ser) (c : Byte) (p : List Byte) :
    ∀ e ∈ Expect.serFrame c p, e.fallible cfg.variant = true := by
  rw [hser, Expect.serFrame]
  split <;> simp +contextual [Event.fallible, or_imp]

theorem claimedFrame_fallibleCount {cfg : Config} (hser : cfg.variant = .ser) (c : Byte) (p : List Byte) :
    fallibleCount cfg (Event.serClaim :: Expect.serFrame c p ++ [Event.serRelease]) = 1 + (Expect.serFrame c p).length := by
  have hframe : (Expect.serFrame c p).countP (fun e => e.fallible cfg.variant) = (Expect.serFrame c p).length :=
    List.countP_eq_length.2 (serFrame_fallible hser c p)
  rw [fallibleCount, List.countP_append, List.countP_cons_of_pos (by simp [Event.fallible]), hframe]
  simp [Event.fallible, Nat.add_comm]

/-- A serial CMD sends its frame, whatever its byte. -/
theorem expand_latched_cmd_ser {s : State} (hser : s.cfg.variant = .ser) (c : Byte) (p : List Byte) :
    expand (s.latched (.cmd c p)) .cmd = claimed s.cfg (serSend c p) := by
  rw [expand_latched_cmd]
  simp [sendCommand, hser]

theorem cmd_ser_sends {s : State} (hser : s.cfg.variant = .ser) (c : Byte) (p : List Byte) :
    List.Forall₂ (Act.Sends (s.latched (.cmd c p))) (expand (s.latched (.cmd c p)) .cmd)
      (Event.serClaim :: Expect.serFrame c p ++ [Event.serRelease]) := by
  rw [expand_latched_cmd_ser hser, claimed_serSend hser]
  exact map_emit_sends _ _

/-- A serial device has no wide path. -/
theorem exec_cmd_ser {s : State} {c : Byte} {p : List Byte} (hser : s.cfg.variant = .ser) (hidle : s.seq = .idle)
    (hdev : s.devValid = true) (hmax : p.length ≤ s.cfg.paramMax) :
    exec (.cmd c p) s = launch .cmd (s.latched (.cmd c p)) :=
  exec_cmd hidle hdev hmax (by simp [takesWidePath, hser])

/-- Settles O35: the claimed frame and its effect. -/
theorem cmdCompletesSerial : Obligations.CmdCompletesSerial := by
  intro s c p rest hser hidle hdev hmax hans
  rw [← claimedFrame_fallibleCount hser] at hans
  rw [exec_cmd_ser hser hidle hdev hmax, launch_completes (cmd_ser_sends hser c p) hans hidle, expand_latched_cmd_ser hser,
    effects_claimed_ser hser, effects_serSend]
  rfl

/-! ### SYNC, SYNCR and FILL on a register-mapped device -/

theorem setWindow_rm_sends (s0 : State) {cfg : Config} (hwf : cfg.wf = true) (hrm : cfg.variant = .rm) (c : Clip) :
    List.Forall₂ (Act.Sends s0) (setWindow cfg c)
      (Expect.rmFrame cfg.cmdColAddr (Expect.col c) ++ Expect.rmFrame cfg.cmdRowAddr (Expect.row c)) := by
  obtain ⟨hcol, hrow⟩ := addressing_ne_bulk hwf
  have hframe : ∀ b q, Expect.frame cfg.variant b q = Expect.rmFrame b q := fun b q => by rw [hrm, Expect.frame]
  rw [← hframe, ← hframe]
  exact List.rel_append (sendCommand_sends s0 (.inr hcol)) (sendCommand_sends s0 (.inr hrow))

/-! ### The operation of a blit -/

/-- SYNC and SYNCR, the operations that run the body of R242. -/
def Op.IsBlitOp (op : Op) : Prop := op = .sync ∨ op = .syncr

theorem Op.IsBlitOp.expands {op : Op} (h : op.IsBlitOp) : op.ExpandsToBlit := by
  rcases h with rfl | rfl <;> exact fun _ => rfl

theorem Op.IsBlitOp.complete_eq {op : Op} (h : op.IsBlitOp) (s : State) :
    complete op s = { s with status := .ok, seq := .idle } := by
  rcases h with rfl | rfl <;> rfl

/-- A blit on a ready device, with the operation it puts in `SEQ`. -/
theorem exec_isBlit {s : State} {i : Instr} {fb : Nat} {c : Clip} (hready : s.Ready) (hblit : IsBlit s.cfg i fb c) :
    (s.opOf i).IsBlitOp ∧ exec i s = startBlit (s.opOf i) { s with fbptr := fb, clip := c } := by
  rcases hblit with ⟨rfl, rfl⟩ | rfl
  · exact ⟨.inl rfl, by simp [exec, execSync, whenIdle_idle hready.1, hready.blitReady, fullClip, State.opOf]⟩
  · exact ⟨.inr rfl, by simp [exec, execSyncr, whenIdle_idle hready.1, hready.blitReady, State.opOf]⟩

/-- Words read from the source buffer. -/
theorem wordHosts_sends {s0 : State} {w : Nat → Word} {n : Nat}
    (h : ∀ j, j < n → s0.memWord (s0.fbptr + 4 * j) = some (w j)) :
    List.Forall₂ (Act.Sends s0) ((List.range n).map .wordHost) (((List.range n).map w).map .rmDat32) := by
  rw [List.map_map]
  refine List.forall₂_map_left_iff.2 (List.forall₂_map_right_iff.2 (List.forall₂_same.2 fun j hj s hs => ⟨s, ?_⟩))
  have hword := h j (List.mem_range.1 hj)
  rw [← memWord_congr hs.cfg hs.mem, ← hs.fbptr] at hword
  simp [Act.prep, hword]

theorem blitActs_rm {cfg : Config} (hrm : cfg.variant = .rm) (c : Clip) :
    blitActs cfg c = setWindow cfg c ++ rmBulkHost cfg (2 * pixelCount c) := by
  simp [blitActs, claimed, sendBulkHost, hrm]

/-- An even number of pixels makes half as many words. -/
theorem bytes_div_four {n : Nat} (h : n % 2 = 0) : 2 * n / 4 = n / 2 := by omega

/-- A wide frame of whole words leaves nothing to send. -/
theorem bytes_sub_words {n : Nat} (h : n % 2 = 0) : 2 * n - 4 * (2 * n / 4) = 0 := by omega

/-- Settles O37: the addressing frames, then the wide frame of the words of the buffer. -/
theorem blitCompletesRegisterMapped : Obligations.BlitCompletesRegisterMapped := by
  intro s i fb c w hwf hrm hready hblit hclip heven halign hw
  obtain ⟨hop, hexec⟩ := exec_isBlit hready hblit
  let u : State := { s with fbptr := fb, clip := c }
  have hread : u.readable fb (2 * pixelCount c) = true := by
    refine (readable_halves_iff u fb _).2 fun j hj => ?_
    obtain ⟨h0, h1⟩ := (memWord_isSome_iff u (fb + 4 * (j / 2))).1 ⟨_, hw (j / 2) (by omega)⟩
    rcases Nat.mod_two_eq_zero_or_one j with hm | hm
    · rwa [show fb + 4 * (j / 2) = fb + 2 * j by omega] at h0
    · rwa [show fb + 4 * (j / 2) + 2 = fb + 2 * j by omega] at h1
  have hlaunch : startBlit (s.opOf i) u = launch (s.opOf i) u := by
    rw [startBlit_source (s := u) hclip fun _ => heven, show u.cfg.variant = .rm from hrm, if_pos rfl,
      if_neg (not_not_intro halign), show u.readable u.fbptr (2 * pixelCount u.clip) = true from hread]
    rfl
  have hwords : ∀ j, j < 2 * pixelCount c / 4 → u.memWord (u.fbptr + 4 * j) = some (w j) :=
    fun j hj => hw j (bytes_div_four heven ▸ hj)
  have hacts : expand u (s.opOf i) = setWindow s.cfg c ++ rmBulkHost s.cfg (2 * pixelCount c) := by
    rw [hop.expands]
    exact blitActs_rm hrm c
  have hsend : List.Forall₂ (Act.Sends u) (expand u (s.opOf i))
      (Expect.rmBlit s.cfg c ((List.range (pixelCount c / 2)).map w)) := by
    rw [hacts, ← bytes_div_four heven]
    exact List.rel_append (setWindow_rm_sends u hwf hrm c) (rmBulk_sends s.cfg _ (wordHosts_sends hwords))
  rw [hexec, hlaunch, launch_completes hsend (answersOk_registerWrites u (rmBlit_registerWrites _ _ _)) hready.1, hop.complete_eq, hacts,
    effects_append, effects_setWindow_rm hwf hrm, effects_rmBulkHost (s := { u with select := .written false }) s.cfg _ hwords, bytes_sub_words heven]
  rfl

theorem fillWord_eq (color : Half) : fillWord color = color ++ color := by
  refine BitVec.eq_of_getLsbD_eq fun i hi => ?_
  rw [fillWord, BitVec.getLsbD_or, BitVec.getLsbD_shiftLeft, BitVec.getLsbD_append, BitVec.getLsbD_setWidth,
    BitVec.getLsbD_setWidth]
  by_cases hlow : i < 16
  · simp [hlow, hi]
  · simp [hlow, hi, BitVec.getLsbD_of_ge color i (Nat.le_of_not_lt hlow), show i - 16 < 32 by omega]

/-- Settles O43: the addressing frames, then the wide frame of the fill word. -/
theorem fillCompletes : Obligations.FillCompletes := by
  intro s color c hwf hrm hready hclip heven
  let u : State := { s with color := color, clip := c }
  have hlaunch : startFill u = launch .fill u := by
    simp [startFill, u, clipOk_eq_true hclip, heven]
  have hsend : List.Forall₂ (Act.Sends u) (expand u .fill)
      (Expect.rmBlit s.cfg c (List.replicate (pixelCount c / 2) (color ++ color))) := by
    rw [← fillWord_eq, ← bytes_div_four heven]
    refine List.rel_append (setWindow_rm_sends u hwf hrm c) ?_
    rw [rmBulkFill_eq]
    exact rmBulk_sends s.cfg _ (words_sends u _)
  rw [exec_fill hready hrm, hlaunch,
    launch_completes hsend (answersOk_registerWrites u (rmBlit_registerWrites _ _ _)) hready.1]
  simp only [expand, fillActs, effects_append, effects_rmBulkFill]
  rw [effects_setWindow_rm hwf hrm, bytes_sub_words heven]
  rfl

/-- Settles O44: a buffer of one colour holds the fill word at every fourth byte. -/
theorem fillEqualsBlitOfConstantBuffer : Obligations.FillEqualsBlitOfConstantBuffer := by
  intro s color fb c hwf hrm hready hclip heven halign hbuf
  have hwords : ∀ j, j < pixelCount c / 2 → s.memWord (fb + 4 * j) = some (color ++ color) := by
    intro j hj
    have h0 := hbuf (2 * j) (by omega)
    have h1 := hbuf (2 * j + 1) (by omega)
    rw [show fb + 2 * (2 * j) = fb + 4 * j by omega] at h0
    rw [show fb + 2 * (2 * j + 1) = fb + 4 * j + 2 by omega] at h1
    simpa using memWord_of_memHalf h0 h1
  have hconst : (List.range (pixelCount c / 2)).map (fun _ => color ++ color) =
      List.replicate (pixelCount c / 2) (color ++ color) := by simp
  refine ⟨_, blitCompletesRegisterMapped s _ fb c _ hwf hrm hready (.inr rfl) hclip heven halign hwords, ?_⟩
  rw [fillCompletes s color c hwf hrm hready hclip heven, hconst]

/-! ### SYNC and SYNCR on a serial device -/

/-- Settles O38: one claim around the addressing frames, the header and the chunks. -/
theorem blitCompletesSerial : Obligations.BlitCompletesSerial := by
  intro s i fb c p rest hwf hser hready hblit hclip halign hp hans
  obtain ⟨hop, hexec⟩ := exec_isBlit hready hblit
  have hC := one_le_capC hwf hser
  let u : State := { s with fbptr := fb, clip := c }
  have hread := (readable_halves_iff u fb _).2 fun j hj => ⟨p j, hp j hj⟩
  have hsend : List.Forall₂ (Act.Sends u) (expand u (s.opOf i)) (Expect.serBlit s.cfg c (pixelCount c) p) := by
    rw [hop.expands]
    exact blitActs_sends (s0 := u) hser hC hp
  rw [← serBlit_fallibleCount hser c _ p] at hans
  rw [hexec, startBlit_serial (s := u) hser hclip halign hread, launch_completes hsend hans hready.1, hop.complete_eq, hop.expands, blitActs,
    effects_claimed_ser hser, effects_append, effects_setWindow_ser hser]
  have hbulk : sendBulkHost s.cfg (pixelCount c) = serBulk s.cfg (pixelCount c) := by simp [sendBulkHost, hser]
  have heffects := effects_serBulk (s := { u with busHeld := true, mode := .driven .data }) hC (pixelCount c) hp
  rw [show sendBulkHost u.cfg (pixelCount u.clip) = _ from hbulk, heffects]
  rfl

end Sys2Proof.Machine

/-! PROOFS. PROBE and REMOVE that complete: the whole next state (47_lifecycle.md, 44_panel_initializer.md). -/

namespace Sys2Proof.Machine

open Sys2Proof

/-! ### REMOVE -/

/-- Settles O31: at most two events, neither of which can fail. -/
theorem removeCompletes : Obligations.RemoveCompletes := by
  intro s hidle
  have hsend : List.Forall₂ (Act.Sends s) (expand s (.remove s.tbufValid s.linesValid))
      ((if s.tbufValid then [Event.resFree] else []) ++ (if s.linesValid then [Event.resPut] else [])) := by
    refine List.rel_append ?_ ?_
    · split
      · exact map_emit_sends s [.resFree]
      · exact .nil
    · split
      · exact map_emit_sends s [.resPut]
      · exact .nil
  have hexec : exec .remove s = launch (.remove s.tbufValid s.linesValid) s := whenIdle_idle hidle _
  have hans : s.AnswersOk (fallibleCount s.cfg
      ((if s.tbufValid then [Event.resFree] else []) ++ (if s.linesValid then [Event.resPut] else []))) s.answers := by
    cases s.tbufValid <;> cases s.linesValid <;> rfl
  rw [hexec, launch_completes hsend hans hidle]
  obtain ⟨cfg, dv, ist, tv, tb, bh, md, se, rs, bl, lv, sq, fr, cl, fp, co, rm, st, ou, me, rq, an, al⟩ := s
  cases tv <;> cases lv <;> rfl

/-- Where nothing is left to remove, REMOVE changes nothing. -/
theorem exec_remove_fixed {t : State} (hidle : t.seq = .idle) (hdown : t.bits = { Bits.down with
      held := t.busHeld, selOn := decide (t.select = .written true) }) (hok : t.status = .ok) :
    exec .remove t = .next t := by
  rw [removeCompletes t hidle]
  cases t
  simp_all [allOk, State.bits, Bits.down]

/-- Settles O32: a REMOVE leaves nothing to remove. -/
theorem removeTwiceIsRemoveOnce : Obligations.RemoveTwiceIsRemoveOnce := by
  intro s t hidle h
  rw [removeCompletes s hidle] at h
  obtain rfl := Host.Outcome.next.inj h
  exact exec_remove_fixed hidle rfl rfl

/-! ### The initializer -/

theorem closing_append_emit (st : InitState) (as : List Act) (e : Event) :
    closing st (as ++ [.emit e]) = as ++ [.emitInit e st] := by
  induction as with
  | nil => rfl
  | cons a as ih =>
    rw [List.cons_append, closing, ih]
    · rfl
    · simp

theorem frame_ne_nil (v : Variant) (c : Byte) (p : List Byte) : Expect.frame v c p ≠ [] := by
  cases v with
  | rm => simp [Expect.frame, Expect.rmFrame]
  | ser => cases p <;> simp [Expect.frame, Expect.serFrame]

theorem sendCommand_of_ne_bulk {cfg : Config} {c : Byte} (h : c ≠ cfg.cmdBulkWrite) (p : List Byte) :
    sendCommand cfg c p = (Expect.frame cfg.variant c p).map .emit := by
  unfold sendCommand Expect.frame
  cases cfg.variant with
  | rm => simp only [if_neg h, rmSend_eq]
  | ser => exact serSend_eq c p

/-- The events of the fourteen configuration commands (R214). -/
def Expect.configure (cfg : Config) : List Event :=
  cfg.initTable.flatMap fun e => frame cfg.variant e.cmd e.params

/-- The configuration transition closes with the last event of the fourteenth command (R211). -/
theorem configureActs_eq {cfg : Config} (hwf : cfg.wf = true) :
    ∃ es e, Expect.configure cfg = es ++ [e] ∧
      configureActs cfg = es.map .emit ++ [.emitInit e .configuringDisplay] := by
  obtain ⟨hlen, htable⟩ := initTable_of_wf hwf
  have hne : Expect.configure cfg ≠ [] := by
    obtain ⟨x, xs, hx⟩ := List.exists_cons_of_length_pos (l := cfg.initTable) (by omega)
    simp [Expect.configure, hx, frame_ne_nil]
  have hacts : (cfg.initTable.flatMap fun e => sendCommand cfg e.cmd e.params) = (Expect.configure cfg).map .emit := by
    rw [Expect.configure, List.map_flatMap]
    exact List.flatMap_congr fun e he => sendCommand_of_ne_bulk (htable e he).2 e.params
  obtain ⟨es, e, hlast⟩ : ∃ es e, Expect.configure cfg = es ++ [e] :=
    ⟨_, _, (List.dropLast_append_getLast hne).symm⟩
  refine ⟨es, e, hlast, ?_⟩
  rw [configureActs, hacts, hlast, List.map_append]
  exact closing_append_emit _ _ _

theorem effects_frame (v : Variant) (c : Byte) (p : List Byte) (s : State) :
    effects ((Expect.frame v c p).map .emit) s = match v with
      | .rm => { s with select := .written false }
      | .ser => { s with mode := .driven (if p = [] then .command else .data) } := by
  cases v with
  | rm => exact (congrArg (effects · s) (rmSend_eq c p)).symm.trans (effects_rmSend c p s)
  | ser => exact (congrArg (effects · s) (serSend_eq c p)).symm.trans (effects_serSend c p s)

/-- The configuration commands of a register-mapped device leave the select bit as the frame before them did. -/
theorem effects_frames_rm (table : List InitEntry) {s : State} (hsel : s.select = .written false) :
    effects ((table.flatMap fun e => Expect.frame .rm e.cmd e.params).map .emit) s = s := by
  induction table with
  | nil => rfl
  | cons x xs ih =>
    have hfirst : effects ((Expect.frame .rm x.cmd x.params).map .emit) s = s := by
      rw [effects_frame, ← hsel]
    rw [List.flatMap_cons, List.map_append, effects_append, hfirst, ih]

/-- The configuration commands of a serial device write the mode-select line alone. -/
theorem effects_frames_ser (table : List InitEntry) (s : State) :
    ∃ m, effects ((table.flatMap fun e => Expect.frame .ser e.cmd e.params).map .emit) s = { s with mode := m } := by
  induction table generalizing s with
  | nil => exact ⟨s.mode, rfl⟩
  | cons x xs ih =>
    obtain ⟨m, hm⟩ := ih { s with mode := .driven (if x.params = [] then .command else .data) }
    exact ⟨m, by rw [List.flatMap_cons, List.map_append, effects_append, effects_frame, hm]⟩

theorem effects_configureActs {cfg : Config} (hwf : cfg.wf = true) (s : State) :
    effects (configureActs cfg) s =
      { effects ((Expect.configure cfg).map .emit) s with initState := .configuringDisplay } := by
  obtain ⟨es, e, hlast, hacts⟩ := configureActs_eq hwf
  rw [hacts, hlast, List.map_append, effects_append, effects_append]
  rfl

theorem effects_hardResetActs (s : State) :
    effects hardResetActs s = { s with rst := .driven .released, initState := .hardReset } := rfl

/-- A parameterless command and the wait that closes its transition, register-mapped. -/
theorem effects_commandThenWait_rm {cfg : Config} (hrm : cfg.variant = .rm) (c : Byte) (ms : Nat) (st : InitState)
    (s : State) :
    effects (sendCommand cfg c [] ++ [.emitInit (.delay ms) st]) s = { s with
      select := .written false, remain := if c = cfg.cmdBulkWrite then 0 else s.remain, initState := st } := by
  rw [effects_append, effects_sendCommand_rm hrm]
  rfl

theorem effects_commandThenWait_ser {cfg : Config} (hser : cfg.variant = .ser) (c : Byte) (ms : Nat) (st : InitState)
    (s : State) :
    effects (sendCommand cfg c [] ++ [.emitInit (.delay ms) st]) s =
      { s with mode := .driven .command, initState := st } := by
  rw [effects_append, effects_sendCommand_ser hser]
  rfl

/-- `REMAIN` after the three parameterless commands of the initializer (log entry 11). -/
def Config.remainAfterInit (cfg : Config) (r : Nat) : Nat :=
  if cfg.cmdSoftReset = cfg.cmdBulkWrite ∨ cfg.cmdSleepExit = cfg.cmdBulkWrite ∨ cfg.cmdDisplayOn = cfg.cmdBulkWrite
  then 0 else r

theorem effects_busPhaseActs_rm {cfg : Config} (hwf : cfg.wf = true) (hrm : cfg.variant = .rm) (s : State) :
    effects (busPhaseActs cfg) s =
      { s with select := .written false, remain := Config.remainAfterInit cfg s.remain, initState := .sleepExit } := by
  have hremain : (if cfg.cmdDisplayOn = cfg.cmdBulkWrite then 0 else
      if cfg.cmdSleepExit = cfg.cmdBulkWrite then 0 else
      if cfg.cmdSoftReset = cfg.cmdBulkWrite then 0 else s.remain) = Config.remainAfterInit cfg s.remain := by
    unfold Config.remainAfterInit
    split_ifs <;> simp_all
  have hsoft : effects (softResetActs cfg) s = _ := effects_commandThenWait_rm hrm cfg.cmdSoftReset 240 .softReset s
  have hsleep : ∀ u, effects (sleepExitActs cfg) u = _ := effects_commandThenWait_rm hrm cfg.cmdSleepExit 120 .sleepExit
  have hconf := effects_configureActs hwf
    { s with select := .written false, remain := if cfg.cmdSoftReset = cfg.cmdBulkWrite then 0 else s.remain,
             initState := .softReset }
  rw [Expect.configure, hrm, effects_frames_rm _ rfl] at hconf
  rw [busPhaseActs, effects_append, effects_append, effects_append, hsoft, hconf, hsleep, effects_sendCommand_rm hrm, ← hremain]
  rfl

theorem effects_busPhaseActs_ser {cfg : Config} (hwf : cfg.wf = true) (hser : cfg.variant = .ser) (s : State) :
    effects (busPhaseActs cfg) s = { s with mode := .driven .command, initState := .sleepExit } := by
  have hsoft : effects (softResetActs cfg) s = _ := effects_commandThenWait_ser hser cfg.cmdSoftReset 240 .softReset s
  have hsleep : ∀ u, effects (sleepExitActs cfg) u = _ :=
    effects_commandThenWait_ser hser cfg.cmdSleepExit 120 .sleepExit
  have hconf := effects_configureActs hwf { s with mode := .driven .command, initState := .softReset }
  obtain ⟨m, hm⟩ := effects_frames_ser cfg.initTable { s with mode := .driven .command, initState := .softReset }
  rw [Expect.configure, hser, hm] at hconf
  rw [busPhaseActs, effects_append, effects_append, effects_append, hsoft, hconf, hsleep, effects_sendCommand_ser hser]
  rfl

/-! ### PROBE -/

theorem exec_probe {s : State} (hwf : s.cfg.wf = true) (hidle : s.seq = .idle) (hdev : s.devValid = false) :
    exec .probe s = launch .probe s := by
  simp [exec, execProbe, whenIdle_idle hidle, hdev, hwf]

theorem effects_initActs_rm {cfg : Config} (hwf : cfg.wf = true) (hrm : cfg.variant = .rm) (s : State) :
    effects (initActs cfg) s = { s with
      rst := .driven .released, select := .written false, remain := Config.remainAfterInit cfg s.remain,
      blOn := true, initState := .displayOn } := by
  have hclaimed : claimed cfg (busPhaseActs cfg) = busPhaseActs cfg := by simp [claimed, hrm]
  rw [initActs, hclaimed, effects_append, effects_append, effects_hardResetActs, effects_busPhaseActs_rm hwf hrm]
  rfl

theorem effects_initActs_ser {cfg : Config} (hwf : cfg.wf = true) (hser : cfg.variant = .ser) (s : State) :
    effects (initActs cfg) s = { s with
      rst := .driven .released, mode := .driven .command, busHeld := false, blOn := true,
      initState := .displayOn } := by
  rw [initActs, effects_append, effects_append, effects_hardResetActs, effects_claimed_ser hser,
    effects_busPhaseActs_ser hwf hser]
  rfl

theorem fallibleCount_append (cfg : Config) (xs ys : List Event) :
    fallibleCount cfg (xs ++ ys) = fallibleCount cfg xs + fallibleCount cfg ys := List.countP_append

/-- No command of a register-mapped device can fail. -/
theorem frame_fallibleCount_rm (cfg : Config) (c : Byte) (p : List Byte) :
    fallibleCount cfg (Expect.frame .rm c p) = 0 := fallibleCount_registerWrites (rmFrame_registerWrites c p)

theorem frames_fallibleCount_rm (cfg : Config) (table : List InitEntry) :
    fallibleCount cfg (table.flatMap fun e => Expect.frame .rm e.cmd e.params) = 0 := by
  induction table with
  | nil => rfl
  | cons x xs ih => rw [List.flatMap_cons, fallibleCount_append, frame_fallibleCount_rm, ih]

/-- A register-mapped PROBE asks for two answers: to `RES.GET` and to `BL(on)` (R67). -/
theorem probe_fallibleCount_rm {cfg : Config} (hrm : cfg.variant = .rm) : fallibleCount cfg (Expect.probe cfg) = 2 := by
  have hphase : fallibleCount cfg (Expect.busPhase cfg) = 0 := by
    simp only [Expect.busPhase, hrm, fallibleCount_append, frame_fallibleCount_rm, frames_fallibleCount_rm]
    rfl
  have hprobe : Expect.probe cfg = [.resGet, .rst .asserted, .delay 10, .rst .released, .delay 120] ++
      Expect.busPhase cfg ++ [.delay 50, .blOn] := by
    simp [Expect.probe, Expect.init_eq, Expect.claimed, hrm]
  rw [hprobe, fallibleCount_append, fallibleCount_append, hphase, fallibleCount, fallibleCount, hrm]
  rfl

/-- Settles O26: `RES.GET` is nothing but an event here, then the initializer. -/
theorem probeCompletesRegisterMapped : Obligations.ProbeCompletesRegisterMapped := by
  intro s rest hwf hrm hidle hdev hans
  rw [← probe_fallibleCount_rm hrm] at hans
  rw [exec_probe hwf hidle hdev, launch_completes (probeActs_sends s hwf) hans hidle]
  have hget : (Act.emit .resGet).effect s = s := by simp [Event.apply, hrm]
  have heffects : effects (expand s .probe) s = effects (initActs s.cfg) s := by
    simp [expand, probeActs, hrm, hget]
  rw [heffects, effects_initActs_rm hwf hrm]
  rfl

/-- Settles O27: the lines and the buffer are obtained, then the initializer runs inside one claim. -/
theorem probeCompletesSerial : Obligations.ProbeCompletesSerial := by
  intro s rest hwf hser hidle hdev hans
  rw [exec_probe hwf hidle hdev, launch_completes (probeActs_sends s hwf) hans hidle]
  have heffects : effects (expand s .probe) s = effects (initActs s.cfg)
      { s with linesValid := true, tbufValid := true, tbuf := s.freshTbuf, allocs := s.allocs + 1 } := by
    simp [expand, probeActs, hser, Event.apply]
    rfl
  refine ⟨s.freshTbuf, by simp [State.freshTbuf], ?_⟩
  rw [heffects, effects_initActs_ser hwf hser]
  rfl

end Sys2Proof.Machine

/-! PROOFS. What an operation leaves unchanged whenever it gives a next state, be it a completion, a wait or an abort. -/

namespace Sys2Proof.Machine

open Sys2Proof

/-! ### The entries of one transport -/

/-- The events of the serial channel and its arbiter. -/
def Event.isSerial : Event → Bool
  | .serClaim | .serRelease | .serDc _ | .serXfer _ => true
  | _ => false

/-- The event belongs to the transport of the variant. -/
def Event.onPort : Variant → Event → Bool
  | .rm, e => e.isRegisterWrite
  | .ser, e => e.isSerial

/-- The entry belongs to the transport of the variant and closes no transition of the initializer. -/
def Act.OnPort (v : Variant) : Act → Prop
  | .emit e => e.onPort v = true
  | .emitRemain e _ => e.onPort v = true
  | .word _ | .wordHost _ => v = .rm
  | .chunk _ _ => v = .ser
  | .emitInit _ _ => False

theorem frame_onPort (v : Variant) (c : Byte) (p : List Byte) : ∀ e ∈ Expect.frame v c p, e.onPort v = true := by
  cases v with
  | rm => exact rmFrame_registerWrites c p
  | ser =>
    show ∀ e ∈ Expect.serFrame c p, e.isSerial = true
    unfold Expect.serFrame
    split <;> simp +contextual [Event.isSerial, or_imp]

theorem rmBulk_onPort {cfg : Config} (m : Nat) {words : List Act} (h : ∀ a ∈ words, a.OnPort .rm) :
    ∀ a ∈ rmBulk cfg m words, a.OnPort .rm := by
  simp only [rmBulk, List.mem_append, List.mem_cons, List.not_mem_nil, or_false]
  rintro a (((rfl | rfl) | ha) | rfl)
  · rfl
  · rfl
  · exact h a ha
  · rfl

theorem sendCommand_onPort (cfg : Config) (c : Byte) (p : List Byte) :
    ∀ a ∈ sendCommand cfg c p, a.OnPort cfg.variant := by
  have frameActs : ∀ a ∈ (Expect.frame cfg.variant c p).map Act.emit, a.OnPort cfg.variant := by
    intro a ha
    obtain ⟨e, he, rfl⟩ := List.mem_map.1 ha
    exact frame_onPort _ c p e he
  cases hv : cfg.variant with
  | ser =>
    rw [hv, Expect.frame, ← serSend_eq] at frameActs
    simpa only [sendCommand, hv] using frameActs
  | rm =>
    rw [hv, Expect.frame, ← rmSend_eq] at frameActs
    simp only [sendCommand, hv]
    split
    · refine rmBulk_onPort _ fun a ha => ?_
      obtain ⟨w, -, rfl⟩ := List.mem_map.1 ha
      rfl
    · exact frameActs

theorem claimed_onPort {cfg : Config} {as : List Act} (h : ∀ a ∈ as, a.OnPort cfg.variant) :
    ∀ a ∈ claimed cfg as, a.OnPort cfg.variant := by
  unfold claimed
  cases hv : cfg.variant with
  | rm => simpa [hv] using h
  | ser =>
    simp only [hv, List.cons_append, List.mem_cons, List.mem_append, List.not_mem_nil, or_false] at h ⊢
    rintro a (rfl | ha | rfl)
    · rfl
    · exact h a ha
    · rfl

theorem setWindow_onPort (cfg : Config) (c : Clip) : ∀ a ∈ setWindow cfg c, a.OnPort cfg.variant := by
  intro a ha
  rcases List.mem_append.1 ha with ha | ha
  · exact sendCommand_onPort _ _ _ a ha
  · exact sendCommand_onPort _ _ _ a ha

/-- A chunk of the loop has at least one pixel and fits the buffer. -/
theorem mem_chunkLoop {capC fuel i n : Nat} {a : Act} (h : a ∈ chunkLoop capC fuel i n) :
    ∃ j k, a = .chunk j k ∧ k ≤ capC ∧ (1 ≤ capC → 1 ≤ k) := by
  induction fuel generalizing i n with
  | zero => cases h
  | succ fuel ih =>
    rw [chunkLoop] at h
    split at h
    · cases h
    · rcases List.mem_cons.1 h with rfl | h
      · exact ⟨_, _, rfl, by omega, by omega⟩
      · exact ih h

theorem blitActs_onPort (cfg : Config) (c : Clip) : ∀ a ∈ blitActs cfg c, a.OnPort cfg.variant := by
  refine claimed_onPort fun a ha => ?_
  rcases List.mem_append.1 ha with ha | ha
  · exact setWindow_onPort cfg c a ha
  cases hv : cfg.variant with
  | rm =>
    simp only [sendBulkHost, hv] at ha
    refine rmBulk_onPort _ (fun a ha => ?_) a ha
    obtain ⟨j, -, rfl⟩ := List.mem_map.1 ha
    rfl
  | ser =>
    simp only [sendBulkHost, hv, serBulk, serSend_eq, List.append_assoc, List.mem_append, List.mem_singleton] at ha
    rcases ha with ha | rfl | ha
    · obtain ⟨e, he, rfl⟩ := List.mem_map.1 ha
      exact frame_onPort .ser _ _ e he
    · rfl
    · obtain ⟨j, k, rfl, -⟩ := mem_chunkLoop ha
      rfl

theorem fillActs_onPort {cfg : Config} (hrm : cfg.variant = .rm) (c : Clip) (color : Half) :
    ∀ a ∈ fillActs cfg c color, a.OnPort cfg.variant := by
  intro a ha
  rcases List.mem_append.1 ha with ha | ha
  · exact setWindow_onPort cfg c a ha
  · rw [rmBulkFill_eq] at ha
    rw [hrm]
    refine rmBulk_onPort _ (fun a ha => ?_) a ha
    obtain ⟨w, -, rfl⟩ := List.mem_map.1 ha
    rfl

/-- The operations whose expansion is traffic of the transport alone. -/
def Op.IsTransport (op : Op) : Prop := op = .cmd ∨ op.IsBlitOp ∨ op = .fill

theorem Op.IsTransport.ne_probe {op : Op} (h : op.IsTransport) : op ≠ .probe := by
  rcases h with rfl | (rfl | rfl) | rfl <;> simp

theorem Op.IsTransport.complete_eq {op : Op} (h : op.IsTransport) (s : State) :
    complete op s = { s with status := .ok, seq := .idle } := by
  rcases h with rfl | (rfl | rfl) | rfl <;> rfl

theorem expand_onPort {op : Op} {s : State} (h : op.IsTransport) (hfill : op = .fill → s.cfg.variant = .rm) :
    ∀ a ∈ expand s op, a.OnPort s.cfg.variant := by
  rcases h with rfl | (rfl | rfl) | rfl
  · exact claimed_onPort (sendCommand_onPort _ _ _)
  · exact blitActs_onPort _ _
  · exact blitActs_onPort _ _
  · exact fillActs_onPort (hfill rfl) _ _

/-- The event that an entry of the transport emits belongs to it too. -/
theorem Act.OnPort.event {v : Variant} {a : Act} (h : a.OnPort v) {s s1 : State} {e : Event}
    (hp : a.prep s = some (s1, e)) : e.onPort v = true := by
  cases a with
  | emit e' => cases hp; exact h
  | emitInit e' st => exact h.elim
  | emitRemain e' m => cases hp; exact h
  | word w => cases hp; cases (h : v = .rm); rfl
  | wordHost j =>
    obtain ⟨w, -, hw⟩ := Option.map_eq_some_iff.1 hp
    cases hw
    cases (h : v = .rm)
    rfl
  | chunk i k =>
    obtain ⟨u, -, hu⟩ := Option.map_eq_some_iff.1 hp
    cases hu
    cases (h : v = .ser)
    rfl

/-! ### A relation kept by every part of a run -/

/-- A preorder on states that acceptance, every entry of the expansion and the completion keep relates the accepted
state to every next state of the operation. -/
theorem launch_keeps {R : State → State → Prop} {op : Op} {s t : State}
    (hrefl : ∀ u, R u u) (htrans : ∀ u v w, R u v → R v w → R u w)
    (haccept : R s { s with seq := .busy op 0 })
    (hadvance : ∀ a ∈ expand s op, ∀ u v, SameOperands s u → performAct op a u = .advanced v → R u v)
    (habort : ∀ a ∈ expand s op, ∀ u v, SameOperands s u → performAct op a u = .aborted v → R u v)
    (hcomplete : ∀ u, SameOperands s u → R u (complete op u))
    (h : launch op s = .next t) : R s t := by
  have run : ∀ (as : List Act) (u v : State), (∀ a ∈ as, a ∈ expand s op) → SameOperands s u →
      advanceAll op as u = some v → R u v := by
    intro as
    induction as with
    | nil =>
      intro u v _ _ hv
      cases hv
      exact hrefl u
    | cons a as ih =>
      intro u v hmem hsame hv
      rw [advanceAll] at hv
      split at hv <;> try contradiction
      rename_i w hw
      have hfirst := hadvance a (hmem a (by simp)) u w hsame hw
      exact htrans _ _ _ hfirst (ih w v (fun b hb => hmem b (by simp [hb])) (hsame.trans (performAct_advanced hw).1) hv)
  have hstart := SameOperands.busy s op 0
  rcases launch_next h with ⟨u, hu, rfl⟩ | ⟨pre, a, post, u, hsplit, hu, -, -, ⟨-, rfl⟩ | hab⟩
  · have hpart := run _ _ _ (fun _ ha => ha) hstart hu
    exact htrans _ _ _ (htrans _ _ _ haccept hpart) (hcomplete u (hstart.trans (advanceAll_spec hu).1))
  · exact htrans _ _ _ haccept (run _ _ _ (fun b hb => by simp [hsplit, hb]) hstart hu)
  · have hpart := run _ _ _ (fun b hb => by simp [hsplit, hb]) hstart hu
    exact htrans _ _ _ (htrans _ _ _ haccept hpart)
      (habort a (by simp [hsplit]) u t (hstart.trans (advanceAll_spec hu).1) hab)

/-! ### What one entry of a transport changes -/

/-- Only `SELECT`, `REMAIN`, `STATUS`, `SEQ` and the trace differ. -/
def ChangesRegisters (s t : State) : Prop :=
  ∃ sel r st q o, t = { s with select := sel, remain := r, status := st, seq := q, out := o }

/-- Only `MODE`, `BUS_HELD`, TBUF, `REMAIN`, `STATUS`, `SEQ`, the trace and the answers differ. -/
def ChangesSerial (s t : State) : Prop :=
  ∃ m h tb r st q o as, t = { s with
    mode := m, busHeld := h, tbuf := tb, remain := r, status := st, seq := q, out := o, answers := as }

theorem registerWrite_apply {e : Event} (h : e.isRegisterWrite = true) (s : State) :
    ∃ sel, e.apply s = { s with select := sel } := by
  cases e <;> simp [Event.isRegisterWrite] at h
  case rmSel v => exact ⟨.written v, rfl⟩
  all_goals exact ⟨s.select, rfl⟩

theorem serial_apply {e : Event} (h : e.isSerial = true) (s : State) :
    ∃ m b, e.apply s = { s with mode := m, busHeld := b } := by
  cases e <;> simp [Event.isSerial] at h
  case serClaim => exact ⟨s.mode, true, rfl⟩
  case serRelease => exact ⟨s.mode, false, rfl⟩
  case serDc m => exact ⟨.driven m, s.busHeld, rfl⟩
  case serXfer bs => exact ⟨s.mode, s.busHeld, rfl⟩

theorem registerWrite_infallible {e : Event} (h : e.isRegisterWrite = true) (v : Variant) : e.fallible v = false := by
  cases e <;> simp_all [Event.isRegisterWrite, Event.fallible]

/-- An entry of the transport writes nothing but `REMAIN` after its event. -/
theorem Act.OnPort.post_eq {v : Variant} {a : Act} (h : a.OnPort v) (s : State) :
    ∃ r, a.post s = { s with remain := r } := by
  cases a with
  | emit e => exact ⟨s.remain, rfl⟩
  | emitInit e st => exact h.elim
  | emitRemain e m => exact ⟨m, rfl⟩
  | word w => exact ⟨_, rfl⟩
  | wordHost j => exact ⟨_, rfl⟩
  | chunk i k => exact ⟨_, rfl⟩

/-- Only a chunk writes the TransferBuffer before its event. -/
theorem Act.OnPort.prep_rm {a : Act} (h : a.OnPort .rm) {s s1 : State} {e : Event} (hp : a.prep s = some (s1, e)) :
    s1 = s := by
  cases a with
  | emit e' => cases hp; rfl
  | emitInit e' st => exact h.elim
  | emitRemain e' m => cases hp; rfl
  | word w => cases hp; rfl
  | wordHost j =>
    obtain ⟨w, -, hw⟩ := Option.map_eq_some_iff.1 hp
    cases hw
    rfl
  | chunk i k => exact absurd h (by simp [Act.OnPort])

/-- A register write that is performed leaves the answers and completes. -/
theorem performAct_registers {op : Op} {a : Act} {s : State} (h : a.OnPort .rm) :
    performAct op a s = .refused .sourceUnreadable ∨
    ∃ t, performAct op a s = .advanced t ∧ ChangesRegisters s t := by
  rcases performAct_cases op a s with ⟨-, hres⟩ | ⟨s1, e, hp, hcases⟩
  · exact .inl hres
  have hwrite : e.isRegisterWrite = true := h.event hp
  have hinf := registerWrite_infallible hwrite s.cfg.variant
  rcases hcases with ⟨hf, -⟩ | ⟨hf, -⟩ | ⟨-, hres⟩ | ⟨hf, -⟩
  · exact absurd hf (by simp [hinf])
  · exact absurd hf (by simp [hinf])
  · refine .inr ⟨_, hres, ?_⟩
    obtain rfl := h.prep_rm hp
    obtain ⟨sel, hsel⟩ := registerWrite_apply hwrite (s1.record e true)
    obtain ⟨r, hr⟩ := h.post_eq (s1.perform e)
    refine ⟨sel, r, s1.status, (a.post (s1.perform e)).advance.seq, s1.out ++ [⟨e, true⟩], ?_⟩
    rw [hr, State.perform, hsel]
    unfold State.advance
    split <;> rfl
  · exact absurd hf (by simp [hinf])

/-- What an entry of the serial transport writes. -/
theorem effect_serial {a : Act} (h : a.OnPort .ser) (s : State) :
    ∃ m b tb r, a.effect s = { s with mode := m, busHeld := b, tbuf := tb, remain := r } := by
  unfold Act.effect
  split
  · exact ⟨s.mode, s.busHeld, s.tbuf, s.remain, rfl⟩
  · rename_i s1 e hp
    obtain ⟨m, b, hm⟩ := serial_apply (h.event hp) s1
    obtain ⟨r, hr⟩ := h.post_eq (e.apply s1)
    refine ⟨m, b, s1.tbuf, r, ?_⟩
    rw [hr, hm, prep_eq hp]

theorem advanced_changesSerial {op : Op} {a : Act} {s t : State} (h : a.OnPort .ser)
    (hadv : performAct op a s = .advanced t) : ChangesSerial s t := by
  obtain ⟨m, b, tb, r, heff⟩ := effect_serial h s
  rw [performAct_advanced_effect hadv, heff]
  exact ⟨m, b, tb, r, s.status, t.seq, t.out, t.answers, rfl⟩

/-- The abort of an operation of the transport. -/
theorem aborted_changesSerial {op : Op} {a : Act} {s t : State} (hop : op ≠ .probe)
    (hab : performAct op a s = .aborted t) : ChangesSerial s t := by
  obtain ⟨-, -, -, s1, e, ans, rest, hp, -, -, rfl⟩ := performAct_aborted hab
  rw [takeAbort_eq hop, releaseIfHeld_eq, prep_eq hp]
  exact ⟨_, _, _, _, _, _, _, _, rfl⟩

/-- The operations of the register-mapped transport change the registers' state, and never wait or fail (R134). -/
theorem launch_registers {op : Op} {s t : State} (hop : op.IsTransport) (hrm : s.cfg.variant = .rm)
    (h : launch op s = .next t) : ChangesRegisters s t ∧ t.seq = .idle ∧ t.status = .ok := by
  have hport : ∀ a ∈ expand s op, a.OnPort .rm := hrm ▸ expand_onPort hop fun _ => hrm
  constructor
  · refine launch_keeps (R := ChangesRegisters) (fun u => ⟨_, _, _, _, _, rfl⟩) ?_ ⟨_, _, _, _, _, rfl⟩
      (fun a ha u v _ hadv => ?_) (fun a ha u v _ hab => ?_) (fun u _ => ?_) h
    · rintro u v w ⟨_, _, _, _, _, rfl⟩ ⟨_, _, _, _, _, rfl⟩
      exact ⟨_, _, _, _, _, rfl⟩
    · rcases performAct_registers (op := op) (s := u) (hport a ha) with hres | ⟨w, hres, hw⟩ <;> rw [hadv] at hres
      · cases hres
      · cases hres
        exact hw
    · rcases performAct_registers (op := op) (s := u) (hport a ha) with hres | ⟨w, hres, hw⟩ <;> rw [hab] at hres <;>
        cases hres
    · rw [hop.complete_eq]
      exact ⟨_, _, _, _, _, rfl⟩
  · rcases launch_next h with ⟨u, -, rfl⟩ | ⟨pre, a, post, u, hsplit, -, -, -, hend⟩
    · exact ⟨complete_seq _ _, complete_status _ _⟩
    · rcases performAct_registers (op := op) (s := u) (hport a (by simp [hsplit])) with hres | ⟨w, hres, -⟩ <;>
        simp [hres] at hend

theorem launch_serial {op : Op} {s t : State} (hop : op.IsTransport) (hne : op ≠ .fill) (hser : s.cfg.variant = .ser)
    (h : launch op s = .next t) : ChangesSerial s t := by
  have hport : ∀ a ∈ expand s op, a.OnPort .ser := hser ▸ expand_onPort hop fun hfill => absurd hfill hne
  refine launch_keeps (R := ChangesSerial) (fun u => ⟨_, _, _, _, _, _, _, _, rfl⟩) ?_ ⟨_, _, _, _, _, _, _, _, rfl⟩
    (fun a ha u v _ hadv => advanced_changesSerial (hport a ha) hadv)
    (fun a ha u v _ hab => aborted_changesSerial hop.ne_probe hab) (fun u _ => ?_) h
  · rintro u v w ⟨_, _, _, _, _, _, _, _, rfl⟩ ⟨_, _, _, _, _, _, _, _, rfl⟩
    exact ⟨_, _, _, _, _, _, _, _, rfl⟩
  · rw [hop.complete_eq]
    exact ⟨_, _, _, _, _, _, _, _, rfl⟩

/-! ### Entries that leave `REMAIN` and the TransferBuffer alone -/

/-- The entry emits a fixed event and does not count. -/
def Act.IsPlain : Act → Prop
  | .emit _ | .emitInit _ _ => True
  | .emitRemain _ _ | .word _ | .wordHost _ | .chunk _ _ => False

theorem Act.IsPlain.prep_eq {a : Act} (h : a.IsPlain) {s s1 : State} {e : Event} (hp : a.prep s = some (s1, e)) :
    s1 = s := by
  cases a with
  | emit e' => cases hp; rfl
  | emitInit e' st => cases hp; rfl
  | _ => exact h.elim

theorem takeAbort_remain (op : Op) (k : Status) (s : State) : (takeAbort op k s).remain = s.remain := by
  cases op <;> simp [takeAbort, destroyRecord_eq]

theorem complete_remain (op : Op) (s : State) : (complete op s).remain = s.remain := by
  cases op <;> rfl

/-- `REMAIN` is loaded and counted down by the bulk paths alone. -/
theorem launch_keeps_remain {op : Op} {s t : State} (hplain : ∀ a ∈ expand s op, a.IsPlain)
    (h : launch op s = .next t) : t.remain = s.remain := by
  refine launch_keeps (R := fun u v => v.remain = u.remain) (fun _ => rfl) (fun _ _ _ h g => g.trans h) rfl
    (fun a ha u v _ hadv => ?_) (fun a ha u v _ hab => ?_) (fun u _ => complete_remain op u) h
  · rw [performAct_advanced_effect hadv]
    have hp := hplain a ha
    cases a with
    | emit e => exact apply_remain e u
    | emitInit e st => exact apply_remain e u
    | _ => exact hp.elim
  · obtain ⟨-, -, -, s1, e, ans, rest, hp, -, -, rfl⟩ := performAct_aborted hab
    rw [takeAbort_remain, (hplain a ha).prep_eq hp]
    rfl

theorem takeAbort_tbuf {op : Op} (hop : op ≠ .probe) (k : Status) (s : State) : (takeAbort op k s).tbuf = s.tbuf := by
  simp [takeAbort_eq hop]

theorem onPort_apply_tbuf {v : Variant} {e : Event} (h : e.onPort v = true) (s : State) : (e.apply s).tbuf = s.tbuf := by
  cases e with
  | resAlloc => cases v <;> cases h
  | resFree => cases v <;> cases h
  | resGet => cases v <;> cases h
  | _ => rfl

/-- The TransferBuffer is written by chunks alone. -/
theorem launch_keeps_tbuf {op : Op} {s t : State} (hop : op.IsTransport)
    (hport : ∀ a ∈ expand s op, a.OnPort s.cfg.variant) (hplain : ∀ a ∈ expand s op, a.IsPlain)
    (h : launch op s = .next t) : t.tbuf = s.tbuf := by
  refine launch_keeps (R := fun u v => v.tbuf = u.tbuf) (fun _ => rfl) (fun _ _ _ h g => g.trans h) rfl
    (fun a ha u v _ hadv => ?_) (fun a ha u v _ hab => ?_) (fun u _ => by rw [hop.complete_eq]) h
  · rw [performAct_advanced_effect hadv]
    have hp := hplain a ha
    have he := hport a ha
    cases a with
    | emit e => exact onPort_apply_tbuf he u
    | emitInit e st => exact he.elim
    | _ => exact hp.elim
  · obtain ⟨-, -, -, s1, e, ans, rest, hp, -, -, rfl⟩ := performAct_aborted hab
    rw [takeAbort_tbuf hop.ne_probe, (hplain a ha).prep_eq hp]
    rfl

/-! ### The frames -/

/-- A command without a payload in words is plain. -/
theorem sendCommand_isPlain {cfg : Config} {c : Byte} (h : cfg.variant = .ser ∨ c ≠ cfg.cmdBulkWrite) (p : List Byte) :
    ∀ a ∈ sendCommand cfg c p, a.IsPlain := by
  have hemits : ∃ es : List Event, sendCommand cfg c p = es.map .emit := by
    rcases h with hser | hne
    · exact ⟨_, by simp only [sendCommand, hser]; exact serSend_eq c p⟩
    · exact ⟨_, sendCommand_of_ne_bulk hne p⟩
  obtain ⟨es, hes⟩ := hemits
  rw [hes]
  intro a ha
  obtain ⟨e, -, rfl⟩ := List.mem_map.1 ha
  exact trivial

theorem claimed_isPlain {cfg : Config} {as : List Act} (h : ∀ a ∈ as, a.IsPlain) : ∀ a ∈ claimed cfg as, a.IsPlain := by
  unfold claimed
  cases cfg.variant with
  | rm => exact h
  | ser =>
    simp only [List.cons_append, List.mem_cons, List.mem_append, List.not_mem_nil, or_false]
    rintro a (rfl | ha | rfl)
    · exact trivial
    · exact h a ha
    · exact trivial

/-- A CMD that is accepted was launched, else `STATUS` alone changed. -/
theorem exec_rejects_or_launches {s t : State} {i : Instr} (h : exec i s = .next t) :
    (∃ k, s.rejection i = some k ∧ t = { s with status := k }) ∨
      (s.rejection i = none ∧ launch (s.opOf i) (s.latched i) = .next t) := by
  cases hrej : s.rejection i with
  | some k =>
    rw [exec_rejects (exec_next h).1 hrej] at h
    exact .inl ⟨k, rfl, (Host.Outcome.next.inj h).symm⟩
  | none => exact .inr ⟨rfl, exec_launches hrej h⟩

/-- Settles O49: a CMD is traffic of its transport, plain unless it carries words. -/
theorem cmdFrame : Obligations.CmdFrame := by
  intro s t c p h
  rcases exec_rejects_or_launches h with ⟨k, -, rfl⟩ | ⟨-, hlaunch⟩
  · exact ⟨rfl, fun _ => rfl, fun _ => ⟨rfl, rfl, fun _ => rfl⟩, fun _ => ⟨rfl, rfl⟩⟩
  have hop : Op.IsTransport .cmd := .inl rfl
  have hexpand := expand_latched_cmd s c p
  have hplain (hc : s.cfg.variant = .ser ∨ c ≠ s.cfg.cmdBulkWrite) :
      ∀ a ∈ expand (s.latched (.cmd c p)) .cmd, a.IsPlain := by
    rw [hexpand]
    exact claimed_isPlain (sendCommand_isPlain hc p)
  cases hv : s.cfg.variant with
  | rm =>
    have hremain : c ≠ s.cfg.cmdBulkWrite → t.remain = s.remain := fun hc =>
      launch_keeps_remain (s := s.latched (.cmd c p)) (hplain (.inr hc)) hlaunch
    obtain ⟨⟨sel, r, st, q, o, rfl⟩, -, -⟩ := launch_registers (s := s.latched (.cmd c p)) hop hv hlaunch
    exact ⟨rfl, fun _ => rfl, fun _ => ⟨rfl, rfl, hremain⟩, fun hser => by cases hser⟩
  | ser =>
    have hremain : t.remain = s.remain := launch_keeps_remain (s := s.latched (.cmd c p)) (hplain (.inl hv)) hlaunch
    have htbuf : t.tbuf = s.tbuf := launch_keeps_tbuf (s := s.latched (.cmd c p)) hop
      (expand_onPort hop fun hfill => by cases hfill) (hplain (.inl hv)) hlaunch
    obtain ⟨m, b, tb, r, st, q, o, as, rfl⟩ := launch_serial (s := s.latched (.cmd c p)) hop (by simp) hv hlaunch
    obtain rfl : tb = s.tbuf := htbuf
    exact ⟨rfl, fun _ => rfl, (fun hrm => by cases hrm), fun _ => ⟨rfl, hremain⟩⟩

theorem opOf_isBlit {s : State} {i : Instr} {fb : Nat} {c : Clip} (h : IsBlit s.cfg i fb c) :
    (s.opOf i).IsBlitOp ∧ s.latched i = { s with fbptr := fb, clip := c } := by
  rcases h with ⟨rfl, rfl⟩ | rfl
  · exact ⟨.inl rfl, rfl⟩
  · exact ⟨.inr rfl, rfl⟩

/-- Settles O50: a blit is traffic of its transport. -/
theorem blitFrame : Obligations.BlitFrame := by
  intro s t i fb c hblit h
  rcases exec_rejects_or_launches h with ⟨k, -, rfl⟩ | ⟨-, hlaunch⟩
  · exact ⟨rfl, fun _ => rfl, fun _ => ⟨rfl, rfl, rfl⟩, fun _ => rfl⟩
  obtain ⟨hblitOp, hlatched⟩ := opOf_isBlit hblit
  have hop : (s.opOf i).IsTransport := .inr (.inl hblitOp)
  have hne : s.opOf i ≠ .fill := by
    rcases hblitOp with hi | hi <;> simp [hi]
  rw [hlatched] at hlaunch
  cases hv : s.cfg.variant with
  | rm =>
    obtain ⟨⟨sel, r, st, q, o, rfl⟩, -, -⟩ :=
      launch_registers (s := { s with fbptr := fb, clip := c }) hop hv hlaunch
    exact ⟨rfl, fun _ => rfl, fun _ => ⟨rfl, rfl, rfl⟩, fun hser => by cases hser⟩
  | ser =>
    obtain ⟨m, b, tb, r, st, q, o, as, rfl⟩ :=
      launch_serial (s := { s with fbptr := fb, clip := c }) hop hne hv hlaunch
    exact ⟨rfl, fun _ => rfl, (fun hrm => by cases hrm), fun _ => rfl⟩

theorem variant_of_fill_accepted {s : State} {color x1 x2 y1 y2 : Half}
    (h : s.rejection (.fill color x1 x2 y1 y2) = none) : s.cfg.variant = .rm := by
  rw [State.rejection] at h
  split at h <;> try split at h
  all_goals cases h
  cases hv : s.cfg.variant <;> simp_all

/-- Settles O51: a FILL is traffic of the register-mapped transport. -/
theorem fillFrame : Obligations.FillFrame := by
  intro s t color x1 x2 y1 y2 h
  rcases exec_rejects_or_launches h with ⟨k, -, rfl⟩ | ⟨hrej, hlaunch⟩
  · exact ⟨rfl, fun _ => rfl⟩
  have hrm := variant_of_fill_accepted hrej
  obtain ⟨⟨sel, r, st, q, o, rfl⟩, -, -⟩ :=
    launch_registers (s := s.latched (.fill color x1 x2 y1 y2)) (.inr (.inr rfl)) hrm hlaunch
  exact ⟨rfl, fun _ => rfl⟩

/-- Every operation keeps the operands it was accepted with. -/
theorem launch_same {op : Op} {s t : State} (h : launch op s = .next t) : SameOperands s t :=
  launch_keeps (R := SameOperands) (fun _ => .rfl) (fun _ _ _ h g => h.trans g) (SameOperands.busy s op 0)
    (fun _ _ _ _ _ hadv => (performAct_advanced hadv).1) (fun _ _ _ _ _ hab => (performAct_aborted hab).1)
    (fun u _ => complete_same op u) h

/-- Settles O52: PROBE keeps the operands, REMOVE's next state is known whole. -/
theorem lifecycleFrame : Obligations.LifecycleFrame := by
  refine ⟨fun s t h => ?_, fun s t h => ?_⟩
  · rcases exec_rejects_or_launches h with ⟨k, -, rfl⟩ | ⟨-, hlaunch⟩
    · exact ⟨rfl, fun _ => rfl⟩
    obtain ⟨hcfg, hframe, hclip, hfb, hcolor, hmem, hreqs⟩ := launch_same hlaunch
    refine ⟨?_, memByte_congr hcfg hmem⟩
    cases t
    simp_all [State.latched]
  · rw [removeCompletes s (exec_next h).1] at h
    obtain rfl := Host.Outcome.next.inj h
    exact ⟨rfl, fun _ => rfl⟩

/-- A register-mapped device has every operation of R303. -/
theorem rejection_rm {s : State} {i : Instr} {k : Status} (hrm : s.cfg.variant = .rm) (h : s.rejection i = some k) :
    k = .notReady ∨ k = .badRequest := by
  cases i <;> simp only [State.rejection, hrm] at h
  all_goals
    repeat' split at h
    all_goals simp_all

/-- Settles O48: the traffic of registers never waits and never fails. -/
theorem registerMappedOperationsNeverFail : Obligations.RegisterMappedOperationsNeverFail := by
  intro i s t hrm hprobe hremove h
  rcases exec_rejects_or_launches h with ⟨k, hrej, rfl⟩ | ⟨hrej, hlaunch⟩
  · exact ⟨(exec_next h).1, rfl, .inr ⟨rfl, rejection_rm hrm hrej⟩⟩
  have hop : (s.opOf i).IsTransport := by
    cases i with
    | probe => exact absurd rfl hprobe
    | remove => exact absurd rfl hremove
    | cmd => exact .inl rfl
    | sync => exact .inr (.inl (.inl rfl))
    | syncr => exact .inr (.inl (.inr rfl))
    | fill => exact .inr (.inr rfl)
  obtain ⟨⟨sel, r, st, q, o, rfl⟩, hidle, hok⟩ := launch_registers hop (by simpa using hrm) hlaunch
  exact ⟨hidle, by simp, .inl hok⟩

end Sys2Proof.Machine

/-! PROOFS. Operations that fail: the device bits along a run, and the abort at the first failing event. -/

namespace Sys2Proof.Machine

open Sys2Proof

/-! ### The bits along a run -/

theorem apply_bits (e : Event) (s : State) : (e.apply s).bits = e.onBits s.cfg.variant s.bits := by
  cases e <;> try rfl
  case rmSel v => cases v <;> simp [Event.apply, State.bits, Event.onBits]
  case resGet => cases hv : s.cfg.variant <;> simp [Event.apply, State.bits, Event.onBits, hv]

theorem prep_bits {a : Act} {s s1 : State} {e : Event} (hp : a.prep s = some (s1, e)) : s1.bits = s.bits := by
  rw [prep_eq hp]
  rfl

/-- What an entry does to the bits, its event being `e`. -/
theorem Act.onBits_of_prep {a : Act} {s s1 : State} {e : Event} (hp : a.prep s = some (s1, e)) (v : Variant) (b : Bits) :
    ∃ i, a.onBits v b = { e.onBits v b with init := i } := by
  cases a with
  | emit e' => cases hp; exact ⟨(e.onBits v b).init, rfl⟩
  | emitInit e' st => cases hp; exact ⟨st, rfl⟩
  | emitRemain e' m => cases hp; exact ⟨(e.onBits v b).init, rfl⟩
  | word w => cases hp; exact ⟨b.init, rfl⟩
  | wordHost j =>
    obtain ⟨w, -, hw⟩ := Option.map_eq_some_iff.1 hp
    cases hw
    exact ⟨b.init, rfl⟩
  | chunk i k =>
    obtain ⟨u, -, hu⟩ := Option.map_eq_some_iff.1 hp
    cases hu
    exact ⟨b.init, rfl⟩

theorem effect_bits (a : Act) (s : State) : (a.effect s).bits = a.onBits s.cfg.variant s.bits := by
  cases a with
  | emit e => exact apply_bits e s
  | emitInit e st => exact congrArg (fun b : Bits => { b with init := st }) (apply_bits e s)
  | emitRemain e m => exact apply_bits e s
  | word w => rfl
  | wordHost j =>
    unfold Act.effect
    split
    · rfl
    · rename_i s1 e hp
      obtain ⟨w, -, hw⟩ := Option.map_eq_some_iff.1 hp
      cases hw
      rfl
  | chunk i k =>
    unfold Act.effect
    split
    · rfl
    · rename_i s1 e hp
      have hbits := prep_bits hp
      obtain ⟨u, -, hu⟩ := Option.map_eq_some_iff.1 hp
      cases hu
      exact hbits

@[simp] theorem effect_cfg (a : Act) (s : State) : (a.effect s).cfg = s.cfg := by
  unfold Act.effect
  split
  · rfl
  · rename_i s1 e hp
    simp
    rw [prep_eq hp]

theorem effects_bits (as : List Act) (s : State) : (effects as s).bits = bitsAfter s.cfg.variant as s.bits := by
  induction as generalizing s with
  | nil => rfl
  | cons a as ih => rw [effects_cons, ih, effect_cfg, effect_bits, bitsAfter, bitsAfter, List.foldl_cons]

/-- The bits after a list of events, the initializer's state left out. -/
def eventsBits (v : Variant) (es : List Event) (b : Bits) : Bits := es.foldl (fun b e => e.onBits v b) b

@[simp] theorem eventsBits_append (v : Variant) (xs ys : List Event) (b : Bits) :
    eventsBits v (xs ++ ys) b = eventsBits v ys (eventsBits v xs b) := List.foldl_append

@[simp] theorem eventsBits_cons (v : Variant) (e : Event) (es : List Event) (b : Bits) :
    eventsBits v (e :: es) b = eventsBits v es (e.onBits v b) := rfl

theorem onBits_withInit (v : Variant) (e : Event) (b : Bits) (i : InitState) :
    e.onBits v { b with init := i } = { e.onBits v b with init := i } := by
  cases e <;> rfl

/-- The bits after a part of an expansion are those after the events it sends, the initializer's state apart. -/
theorem bitsAfter_of_sends {s0 : State} {as : List Act} {es : List Event} (hsend : List.Forall₂ (Act.Sends s0) as es)
    (v : Variant) (b : Bits) : ∃ i, bitsAfter v as b = { eventsBits v es b with init := i } := by
  have main : ∀ c i, c = { b with init := i } → ∃ i, bitsAfter v as c = { eventsBits v es b with init := i } := by
    induction hsend generalizing b with
    | nil =>
      rintro c i rfl
      exact ⟨i, rfl⟩
    | @cons a e as es ha _ ih =>
      rintro c i rfl
      obtain ⟨s1, hp⟩ := ha s0 .rfl
      obtain ⟨j, hj⟩ := a.onBits_of_prep hp v { b with init := i }
      rw [onBits_withInit] at hj
      exact ih (e.onBits v b) _ j hj
  exact main b b.init rfl

/-- Before any release the bus is held exactly if it was claimed or held before. -/
theorem eventsBits_held {es : List Event} (h : Event.serRelease ∉ es) (v : Variant) (b : Bits) :
    (eventsBits v es b).held = true ↔ b.held = true ∨ Event.serClaim ∈ es := by
  induction es generalizing b with
  | nil => simp [eventsBits]
  | cons e es ih =>
    rw [List.mem_cons, not_or] at h
    rw [eventsBits_cons, ih h.2]
    cases e <;> simp_all [Event.onBits]

/-- Without a claim a free bus stays free. -/
theorem eventsBits_free {es : List Event} (h : Event.serClaim ∉ es) (v : Variant) (b : Bits) (hb : b.held = false) :
    (eventsBits v es b).held = false := by
  induction es generalizing b with
  | nil => exact hb
  | cons e es ih =>
    rw [List.mem_cons, not_or] at h
    rw [eventsBits_cons]
    exact ih h.2 _ (by cases e <;> simp_all [Event.onBits])

theorem eventsBits_tbufV {es : List Event} (h : Event.resFree ∉ es) (v : Variant) (b : Bits) :
    (eventsBits v es b).tbufV = true ↔ b.tbufV = true ∨ Event.resAlloc ∈ es := by
  induction es generalizing b with
  | nil => simp [eventsBits]
  | cons e es ih =>
    rw [List.mem_cons, not_or] at h
    rw [eventsBits_cons, ih h.2]
    cases e <;> simp_all [Event.onBits]

theorem eventsBits_linesV {es : List Event} (h : Event.resPut ∉ es) (v : Variant) (b : Bits) :
    (eventsBits v es b).linesV = true ↔ b.linesV = true ∨ (v = .ser ∧ Event.resGet ∈ es) := by
  induction es generalizing b with
  | nil => simp [eventsBits]
  | cons e es ih =>
    rw [List.mem_cons, not_or] at h
    rw [eventsBits_cons, ih h.2]
    cases e <;> simp_all [Event.onBits]

/-! ### The first failing event -/

/-- The entry that sends the event at an index. -/
theorem act_of_event {s0 : State} {as : List Act} {es : List Event} {j : Nat} {e : Event}
    (hsend : List.Forall₂ (Act.Sends s0) as es) (hj : es[j]? = some e) :
    ∃ a post, as = as.take j ++ a :: post ∧ a.Sends s0 e := by
  have hdrop := List.forall₂_drop j hsend
  obtain ⟨hlt, hget⟩ := List.getElem?_eq_some_iff.1 hj
  rw [List.drop_eq_getElem_cons hlt, hget] at hdrop
  obtain ⟨a, post, ha, -, heq⟩ := List.forall₂_cons_right_iff.1 hdrop
  exact ⟨a, post, by rw [← heq, List.take_append_drop], ha⟩

/-- An operation whose `j`-th event fails after the events before it completed: the abort, where the bits are those
that these events leave. -/
theorem launch_fails {s : State} {op : Op} {es : List Event} {j : Nat} {e : Event} {a : Answer} {rest : List Answer}
    (hsend : List.Forall₂ (Act.Sends s) (expand s op) es) (hj : es[j]? = some e)
    (hf : e.fallible s.cfg.variant = true) (hne : a ≠ .ok)
    (hans : s.AnswersOk (fallibleCount s.cfg (es.take j)) (a :: rest)) :
    ∃ u : State, launch op s = .next (takeAbort op (e.failStatus a) u) ∧ u.answers = rest ∧
      u.out = s.out ++ allOk (es.take j) ++ [⟨e, false⟩] ∧
      ∃ i, u.bits = { eventsBits s.cfg.variant (es.take j) s.bits with init := i } := by
  obtain ⟨act, post, hsplit, hact⟩ := act_of_event hsend hj
  have hpre := List.forall₂_take j hsend
  have hrun := advanceAll_completes (op := op) (k := 0) hpre hans
  generalize hv : (effects ((expand s op).take j) s).logged _ _ _ = v at hrun
  have hsame : SameOperands s v := (SameOperands.busy s op 0).trans (advanceAll_spec hrun).1
  obtain ⟨s1, hp⟩ := hact v hsame
  have hvans : v.answers = a :: rest := by rw [← hv]; rfl
  have hvout : v.out = s.out ++ allOk (es.take j) := by rw [← hv]; rfl
  have hvbits : v.bits = bitsAfter s.cfg.variant ((expand s op).take j) s.bits := by
    rw [← hv]
    exact effects_bits _ s
  obtain ⟨i, hi⟩ := bitsAfter_of_sends hpre s.cfg.variant s.bits
  refine ⟨State.record { s1 with answers := rest } e false, ?_, rfl, ?_, i, ?_⟩
  · rw [launch, hsplit, runActs_append hrun, runActs, performAct_fail hp (hsame.cfg ▸ hf) hvans hne]
  · rw [prep_eq hp, ← hvout]
    rfl
  · rw [← hi, ← hvbits, ← prep_bits hp]
    rfl

theorem allOk_ite (c : Prop) [Decidable c] (e : Event) :
    allOk (if c then [e] else []) = if c then [⟨e, true⟩] else [] := by
  split <;> rfl

/-- The released lines and the freed buffer of an aborted PROBE, by the bits the abort finds. -/
theorem takeAbort_out_bits (op : Op) (k : Status) (u : State) :
    (takeAbort op k u).out = u.out ++ (if u.bits.held then [⟨.serRelease, true⟩] else []) ++
      (if op = .probe then
        (if u.bits.tbufV then [⟨.resFree, true⟩] else []) ++ (if u.bits.linesV then [⟨.resPut, true⟩] else [])
       else []) := takeAbort_out op k u

/-! ### CMD and the blits on a serial device -/

/-- Before any release a serial operation holds the bus exactly if its first event, the claim, was sent. -/
theorem held_after_claim {es : List Event} (hrel : Event.serRelease ∉ es) (v : Variant) {b : Bits}
    (hb : b.held = false) (j : Nat) :
    (eventsBits v ((Event.serClaim :: es).take j) b).held = decide (j ≠ 0) := by
  have hrel' : Event.serRelease ∉ (Event.serClaim :: es).take j := fun hmem => by
    rcases List.mem_cons.1 (List.mem_of_mem_take hmem) with h | h
    · cases h
    · exact hrel h
  have hheld := eventsBits_held hrel' v b
  cases j with
  | zero => simpa [hb] using hheld
  | succ j => simpa [hb] using hheld

/-- A serial operation of the transport whose `j`-th event fails: the trace of the abort. -/
theorem launch_fails_serial {s : State} {op : Op} {es tail : List Event} {j : Nat} {e : Event} {a : Answer}
    {rest : List Answer} (hop : op.IsTransport) (hser : s.cfg.variant = .ser)
    (hfree : s.busHeld = false)
    (hsend : List.Forall₂ (Act.Sends s) (expand s op) (Event.serClaim :: es ++ tail))
    (hes : ∀ e ∈ es, e.isSerial = true ∧ e ≠ .serRelease) (hj : (Event.serClaim :: es)[j]? = some e) (hne : a ≠ .ok)
    (hans : s.AnswersOk j (a :: rest)) :
    ∃ t, launch op s = .next t ∧ t.status = .busError ∧ t.seq = .idle ∧ t.busHeld = false ∧
      t.out = s.out ++ allOk ((Event.serClaim :: es).take j) ++ [⟨e, false⟩] ++
        (if j = 0 then [] else [⟨.serRelease, true⟩]) := by
  have hserial : ∀ x ∈ Event.serClaim :: es, x.isSerial = true ∧ x ≠ .serRelease := by
    simpa [Event.isSerial] using hes
  have hfallible : ∀ x ∈ Event.serClaim :: es, x.fallible s.cfg.variant = true := by
    intro x hx
    obtain ⟨hx1, hx2⟩ := hserial x hx
    rw [hser]
    cases x <;> simp_all [Event.isSerial, Event.fallible]
  obtain ⟨hlt, hget⟩ := List.getElem?_eq_some_iff.1 hj
  have hmem : e ∈ Event.serClaim :: es := hget ▸ List.getElem_mem hlt
  have htake : (Event.serClaim :: es ++ tail).take j = (Event.serClaim :: es).take j :=
    List.take_append_of_le_length hlt.le
  have hcount : fallibleCount s.cfg ((Event.serClaim :: es ++ tail).take j) = j := by
    rw [htake, fallibleCount, List.countP_eq_length.2 fun x hx => hfallible x (List.mem_of_mem_take hx),
      List.length_take, Nat.min_eq_left hlt.le]
  rw [← hcount] at hans
  obtain ⟨u, hlaunch, -, hout, i, hbits⟩ := launch_fails hsend
    (by rw [List.getElem?_append_left hlt, hj]) (hfallible e hmem) hne hans
  refine ⟨_, hlaunch, ?_, rfl, takeAbort_busHeld _ _ _, ?_⟩
  · obtain ⟨he, -⟩ := hserial e hmem
    cases e <;> simp_all [Event.isSerial, Event.failStatus]
  · have hheld : u.bits.held = decide (j ≠ 0) := by
      rw [hbits, htake]
      exact held_after_claim (fun h => (hes _ h).2 rfl) _ hfree j
    rw [takeAbort_out_bits, hout, htake, hheld, if_neg hop.ne_probe]
    by_cases hj0 : j = 0 <;> simp [hj0]

theorem serFrame_serial (c : Byte) (p : List Byte) :
    ∀ e ∈ Expect.serFrame c p, e.isSerial = true ∧ e ≠ .serRelease := by
  unfold Expect.serFrame
  split <;> simp +contextual [Event.isSerial, or_imp]

/-- Settles O36: the frame inside the claim has no release of its own. -/
theorem cmdFailureReleasesTheBus : Obligations.CmdFailureReleasesTheBus := by
  intro s c p j a e rest hser hidle hdev hfree hmax hj hne hans
  obtain ⟨t, hlaunch, hstatus, hseq, hheld, hout⟩ := launch_fails_serial (s := s.latched (.cmd c p)) (.inl rfl) hser
    hfree (cmd_ser_sends hser c p) (serFrame_serial c p) hj hne hans
  have hexec : exec (.cmd c p) s = .next t := by rw [exec_cmd_ser hser hidle hdev hmax, hlaunch]
  obtain ⟨hframe, -⟩ := cmdFrame s t c p hexec
  exact ⟨t, hexec, hstatus, hseq, hheld, by rw [hframe]; exact hdev, by rw [hframe], hout⟩

/-- The events of a serial blit between the claim and the release. -/
def Expect.serBlitBody (cfg : Config) (c : Clip) (n : Nat) (p : Nat → Half) : List Event :=
  serFrame cfg.cmdColAddr (col c) ++ serFrame cfg.cmdRowAddr (row c) ++
    [.serDc .command, .serXfer [cfg.cmdBulkWrite], .serDc .data] ++ (chunks cfg.capC n p).map .serXfer

theorem Expect.serBlit_eq_body (cfg : Config) (c : Clip) (n : Nat) (p : Nat → Half) :
    serBlit cfg c n p = Event.serClaim :: serBlitBody cfg c n p ++ [Event.serRelease] := by
  simp [serBlit, serBlitHead, serBlitBody]

theorem serBlitBody_serial (cfg : Config) (c : Clip) (n : Nat) (p : Nat → Half) :
    ∀ e ∈ Expect.serBlitBody cfg c n p, e.isSerial = true ∧ e ≠ .serRelease := by
  simp only [Expect.serBlitBody, List.mem_append, List.mem_map]
  rintro e (((he | he) | he) | ⟨bs, -, rfl⟩)
  · exact serFrame_serial _ _ e he
  · exact serFrame_serial _ _ e he
  · revert e
    simp [Event.isSerial]
  · simp [Event.isSerial]

theorem serBlitBody_length (cfg : Config) (c : Clip) (n : Nat) (p : Nat → Half) :
    (Event.serClaim :: Expect.serBlitBody cfg c n p).length = 18 + Expect.ceilDiv n cfg.capC := by
  simp [Expect.serBlitBody, Expect.serFrame, Expect.col, Expect.row]
  omega

/-- Settles O40: every event up to the last chunk stands inside the claim. -/
theorem blitFailureStopsAtTheFirstError : Obligations.BlitFailureStopsAtTheFirstError := by
  intro s i fb c p j a e rest hwf hser hready hfree hblit hclip halign hp hlt hj hne hans
  obtain ⟨hop, hexec⟩ := exec_isBlit hready hblit
  let u : State := { s with fbptr := fb, clip := c }
  have hread := (readable_halves_iff u fb _).2 fun j hj => ⟨p j, hp j hj⟩
  have hsend : List.Forall₂ (Act.Sends u) (expand u (s.opOf i)) (Expect.serBlit s.cfg c (pixelCount c) p) := by
    rw [hop.expands]
    exact blitActs_sends (s0 := u) hser (one_le_capC hwf hser) hp
  rw [← serBlitBody_length s.cfg c _ p] at hlt
  rw [Expect.serBlit_eq_body] at hsend hj
  rw [List.getElem?_append_left hlt] at hj
  obtain ⟨t, hlaunch, hstatus, hseq, hheld, hout⟩ := launch_fails_serial (s := u) (.inr (.inl hop)) hser hfree hsend
    (serBlitBody_serial _ _ _ _) hj hne hans
  have hnext : exec i s = .next t := by rw [hexec, startBlit_serial (s := u) hser hclip halign hread, hlaunch]
  obtain ⟨hframe, -⟩ := blitFrame s t i fb c hblit hnext
  refine ⟨t, hnext, hstatus, hseq, hheld, by rw [hframe]; exact hready.2.1, by rw [hframe]; exact hready.2.2, ?_⟩
  rw [hout, Expect.serBlit_eq_body, List.take_append_of_le_length hlt.le]

/-! ### PROBE -/

/-- The events of PROBE outside the transport. -/
def Event.isLifecycle : Event → Bool
  | .resGet | .resAlloc | .rst _ | .delay _ | .blOn => true
  | _ => false

theorem busPhase_events (cfg : Config) : ∀ e ∈ Expect.busPhase cfg,
    (e.onPort cfg.variant = true ∧ e ≠ .serRelease) ∨ e.isLifecycle = true := by
  have hframe : ∀ c p, ∀ e ∈ Expect.frame cfg.variant c p, e.onPort cfg.variant = true ∧ e ≠ .serRelease := by
    intro c p e he
    refine ⟨frame_onPort _ c p e he, ?_⟩
    rintro rfl
    cases hv : cfg.variant with
    | rm => exact absurd (rmFrame_registerWrites c p _ (by rwa [hv] at he)) (by simp [Event.isRegisterWrite])
    | ser => exact (serFrame_serial c p _ (by rwa [hv] at he)).2 rfl
  simp only [Expect.busPhase, List.mem_append, List.mem_flatMap, List.mem_singleton]
  rintro e ((((he | rfl) | ⟨x, -, he⟩) | (he | rfl)) | he)
  · exact .inl (hframe _ _ e he)
  · exact .inr rfl
  · exact .inl (hframe _ _ e he)
  · exact .inl (hframe _ _ e he)
  · exact .inr rfl
  · exact .inl (hframe _ _ e he)

/-- PROBE sends events of its transport, and those of the lifecycle. -/
theorem probe_events (cfg : Config) : ∀ e ∈ Expect.probe cfg, e.onPort cfg.variant = true ∨ e.isLifecycle = true := by
  have hphase : ∀ e ∈ Expect.busPhase cfg, e.onPort cfg.variant = true ∨ e.isLifecycle = true :=
    fun e he => (busPhase_events cfg e he).imp_left And.left
  rw [Expect.probe, Expect.init_eq, Expect.claimed]
  cases hv : cfg.variant with
  | rm =>
    rw [hv] at hphase
    simp +contextual [or_imp, Event.isLifecycle] at hphase ⊢
    exact hphase
  | ser =>
    rw [hv] at hphase
    simp +contextual [or_imp, Event.isLifecycle, Event.onPort, Event.isSerial] at hphase ⊢
    exact hphase

/-- The events of a serial PROBE up to its release. -/
def Expect.probeClaimed (cfg : Config) : List Event :=
  [.resGet, .resAlloc, .rst .asserted, .delay 10, .rst .released, .delay 120, .serClaim] ++ busPhase cfg

theorem Expect.probe_eq_ser {cfg : Config} (hser : cfg.variant = .ser) :
    probe cfg = probeClaimed cfg ++ .serRelease :: [.delay 50, .blOn] := by
  simp [probe, init_eq, claimed, hser, probeClaimed]

theorem serRelease_notMem_probeClaimed (cfg : Config) : Event.serRelease ∉ Expect.probeClaimed cfg := by
  intro hmem
  rcases List.mem_append.1 hmem with h | h
  · simp at h
  · simpa [Event.isLifecycle] using busPhase_events cfg _ h

/-- During PROBE the bus is held after the claim and before the release. -/
theorem probe_held (cfg : Config) (j : Nat) {b : Bits} (hb : b.held = false) :
    (eventsBits cfg.variant ((Expect.probe cfg).take j) b).held = true ↔
      Event.serClaim ∈ (Expect.probe cfg).take j ∧ Event.serRelease ∉ (Expect.probe cfg).take j := by
  by_cases hrel : Event.serRelease ∈ (Expect.probe cfg).take j
  · have hser : cfg.variant = .ser := by
      have hevent := probe_events cfg _ (List.mem_of_mem_take hrel)
      cases hv : cfg.variant with
      | ser => rfl
      | rm => simp [hv, Event.onPort, Event.isRegisterWrite, Event.isLifecycle] at hevent
    simp only [hrel, not_true_eq_false, and_false, iff_false, Bool.not_eq_true]
    rw [Expect.probe_eq_ser hser, List.take_append] at hrel ⊢
    have hlate := (List.mem_append.1 hrel).resolve_left fun h =>
      serRelease_notMem_probeClaimed cfg (List.mem_of_mem_take h)
    cases hk : j - (Expect.probeClaimed cfg).length with
    | zero => simp [hk] at hlate
    | succ k =>
      rw [List.take_succ_cons, eventsBits_append, eventsBits_cons]
      exact eventsBits_free (fun h => by simpa using List.mem_of_mem_take h) _ _ rfl
  · rw [eventsBits_held hrel]
    simp [hb, hrel]

/-- A state without a device meets R42 (d). -/
theorem State.Inv.down {s : State} (hinv : s.Inv) (hidle : s.seq = .idle) (hdev : s.devValid = false) :
    s.bits = Bits.down := by
  have hseq := hinv.seqInv
  rw [State.SeqInv, hidle] at hseq
  refine hseq.resolve_right fun hup => ?_
  exact absurd (hdev.symm.trans (congrArg Bits.dev hup)) (by simp [Bits.up])

/-- Settles O58: the abort finds the bus claimed, the buffer allocated and the lines obtained exactly if the events
before the failed one did so. -/
theorem failedProbeStopsAtTheFirstError : Obligations.FailedProbeStopsAtTheFirstError := by
  intro s j a e rest hinv hidle hdev hj hf hne hans before
  obtain ⟨u, hlaunch, hrest, hout, i, hbits⟩ := launch_fails (op := .probe) (probeActs_sends s hinv.cfgWf) hj hf hne hans
  rw [hinv.down hidle hdev] at hbits
  have hevents : ∀ x ∈ before, x ≠ .resFree ∧ x ≠ .resPut := by
    intro x hx
    have hevent := probe_events s.cfg x (List.mem_of_mem_take hx)
    constructor <;> rintro rfl <;> revert hevent <;> cases s.cfg.variant <;> decide
  have hheld : u.bits.held = true ↔ Event.serClaim ∈ before ∧ Event.serRelease ∉ before := by
    rw [hbits]
    exact probe_held s.cfg j rfl
  have htbuf : u.bits.tbufV = true ↔ Event.resAlloc ∈ before := by
    rw [hbits]
    exact (eventsBits_tbufV (fun h => (hevents _ h).1 rfl) _ _).trans (by simp [Bits.down])
  have hlines : u.bits.linesV = true ↔ s.cfg.variant = .ser ∧ Event.resGet ∈ before := by
    rw [hbits]
    exact (eventsBits_linesV (fun h => (hevents _ h).2 rfl) _ _).trans (by simp [Bits.down])
  refine ⟨_, (exec_probe hinv.cfgWf hidle hdev).trans hlaunch, rfl, ?_, ?_, ?_, ?_, ?_, ?_, takeAbort_busHeld _ _ _, ?_, ?_⟩
  · rw [takeAbort_answers, hrest]
  · simp [takeAbort_probe, destroyRecord_eq]
  · simp [takeAbort_probe, destroyRecord_eq]
  · simp [takeAbort_probe, destroyRecord_eq]
  · simp [takeAbort_probe, destroyRecord_eq]
  · simp [takeAbort_probe, destroyRecord_eq]
  · cases e <;> rfl
  · rw [takeAbort_out_bits, hout, if_pos rfl]
    simp only [hheld, htbuf, hlines, allOk_append, allOk_ite, List.append_assoc]
    rfl

end Sys2Proof.Machine

/-! PROOFS. The observer of 30_encoding.md R107 along the expansions: every operation, run to its end with no failure,
is a legal trace and leaves the observer where it started. -/

namespace Sys2Proof.Machine

open Sys2Proof

/-! ### Runs of the observer -/

theorem Mon.run_append (bulk : Byte) (m : Mon) (xs ys : List Entry) :
    Mon.run bulk m (xs ++ ys) = (Mon.run bulk m xs).bind fun m' => Mon.run bulk m' ys := List.foldlM_append

theorem Mon.run_cons (bulk : Byte) (m : Mon) (x : Entry) (xs : List Entry) :
    Mon.run bulk m (x :: xs) = (Mon.next bulk m x).bind fun m' => Mon.run bulk m' xs := List.foldlM_cons

@[simp] theorem Mon.run_nil (bulk : Byte) (m : Mon) : Mon.run bulk m [] = some m := rfl

theorem Mon.run_snoc (bulk : Byte) (m : Mon) (xs : List Entry) (x : Entry) :
    Mon.run bulk m (xs ++ [x]) = (Mon.run bulk m xs).bind fun m' => Mon.next bulk m' x := by
  rw [Mon.run_append]
  congr 1
  funext m'
  rw [Mon.run_cons]
  cases Mon.next bulk m' x <;> rfl

/-- The entries, each completed, take the observer from `m` to `m'`. -/
def Mon.Traverses (bulk : Byte) (as : List Act) (m m' : Mon) : Prop :=
  Mon.run bulk m (allOk (as.map Act.shape)) = some m'

theorem Mon.Traverses.nil (bulk : Byte) (m : Mon) : Mon.Traverses bulk [] m m := rfl

theorem Mon.Traverses.cons {bulk : Byte} {a : Act} {as : List Act} {m m1 m' : Mon}
    (ha : Mon.next bulk m ⟨a.shape, true⟩ = some m1) (has : Mon.Traverses bulk as m1 m') :
    Mon.Traverses bulk (a :: as) m m' := by
  unfold Mon.Traverses at has ⊢
  rw [List.map_cons, allOk, List.map_cons, Mon.run_cons, ha]
  exact has

theorem Mon.Traverses.append {bulk : Byte} {as bs : List Act} {m m1 m' : Mon} (ha : Mon.Traverses bulk as m m1)
    (hb : Mon.Traverses bulk bs m1 m') : Mon.Traverses bulk (as ++ bs) m m' := by
  unfold Mon.Traverses at ha hb ⊢
  rw [List.map_append, allOk_append, Mon.run_append, ha]
  exact hb

/-- Entries at which the observer stays where it is. -/
theorem Mon.Traverses.same {bulk : Byte} {as : List Act} {m : Mon}
    (h : ∀ a ∈ as, Mon.next bulk m ⟨a.shape, true⟩ = some m) : Mon.Traverses bulk as m m := by
  induction as with
  | nil => exact .nil bulk m
  | cons a as ih => exact .cons (h a (by simp)) (ih fun b hb => h b (by simp [hb]))

/-! ### Frames -/

/-- The observer between two frames inside a claim. -/
def Mon.inClaim (line : Option DcLevel) (cmd : Option Byte) : Mon := { Mon.start with held := true, line, serCmd := cmd }

/-- Between two frames of an operation: outside every bracket, or inside the claim of a serial device. -/
def Mon.Between : Variant → Mon → Prop
  | .rm, m => m = Mon.start
  | .ser, m => ∃ line cmd, m = Mon.inClaim line cmd

/-- The entries take the observer from between two frames to between two frames. -/
def Mon.Keeps (bulk : Byte) (v : Variant) (as : List Act) : Prop :=
  ∀ m, Mon.Between v m → ∃ m', Mon.Traverses bulk as m m' ∧ Mon.Between v m'

theorem Mon.Keeps.append {bulk : Byte} {v : Variant} {as bs : List Act} (ha : Mon.Keeps bulk v as)
    (hb : Mon.Keeps bulk v bs) : Mon.Keeps bulk v (as ++ bs) := by
  intro m hm
  obtain ⟨m1, h1, hm1⟩ := ha m hm
  obtain ⟨m2, h2, hm2⟩ := hb m1 hm1
  exact ⟨m2, h1.append h2, hm2⟩

/-- A wait may stand between any two frames. -/
theorem Mon.Keeps.delay (bulk : Byte) (v : Variant) {a : Act} {ms : Nat} (ha : a.shape = .delay ms) :
    Mon.Keeps bulk v [a] := by
  intro m hm
  refine ⟨m, .same fun b hb => ?_, hm⟩
  obtain rfl := List.mem_singleton.1 hb
  rw [ha]
  cases v with
  | rm =>
    obtain rfl := hm
    rfl
  | ser =>
    obtain ⟨line, cmd, rfl⟩ := hm
    rfl

/-- The narrow frame, under any command but the bulk-write one (R107 (a)). -/
theorem rmSend_traverses {bulk c : Byte} (hc : c ≠ bulk) (p : List Byte) :
    Mon.Traverses bulk (rmSend c p) Mon.start Mon.start := by
  have hparams : Mon.Traverses bulk (p.map fun b => .emit (.rmDat8 b)) { Mon.start with sel := true, rmCmd := some c }
      { Mon.start with sel := true, rmCmd := some c } := by
    refine .same fun a ha => ?_
    obtain ⟨b, -, rfl⟩ := List.mem_map.1 ha
    simp [Act.shape, Mon.next, hc]
  exact (Mon.Traverses.append (.cons rfl (.cons rfl (.nil _ _))) hparams).append (.cons rfl (.nil _ _))

/-- The wide frame, under the bulk-write command (R107 (b)). -/
theorem rmBulk_traverses (cfg : Config) (m : Nat) {words : List Act} (h : ∀ a ∈ words, ∃ w, a.shape = .rmDat32 w) :
    Mon.Traverses cfg.cmdBulkWrite (rmBulk cfg m words) Mon.start Mon.start := by
  have hwords : Mon.Traverses cfg.cmdBulkWrite words { Mon.start with sel := true, rmCmd := some cfg.cmdBulkWrite }
      { Mon.start with sel := true, rmCmd := some cfg.cmdBulkWrite } := by
    refine .same fun a ha => ?_
    obtain ⟨w, hw⟩ := h a ha
    simp [hw, Mon.next]
  exact (Mon.Traverses.append (.cons rfl (.cons rfl (.nil _ _))) hwords).append (.cons rfl (.nil _ _))

/-- The serial frame, every byte its own transaction (R107 (d)). -/
theorem serSend_traverses (bulk c : Byte) (d : List Byte) (line : Option DcLevel) (cmd : Option Byte) :
    Mon.Traverses bulk (serSend c d) (Mon.inClaim line cmd)
      (Mon.inClaim (some (if d = [] then .command else .data)) (some c)) := by
  have hcmd : Mon.Traverses bulk [.emit (.serDc .command), .emit (.serXfer [c])] (Mon.inClaim line cmd)
      (Mon.inClaim (some .command) (some c)) := .cons rfl (.cons rfl (.nil _ _))
  cases d with
  | nil => exact hcmd
  | cons b d =>
    refine hcmd.append (.cons (m1 := Mon.inClaim (some .data) (some c)) rfl (.same fun a ha => ?_))
    obtain ⟨b', -, rfl⟩ := List.mem_map.1 ha
    rfl

theorem sendCommand_keeps (cfg : Config) (c : Byte) (p : List Byte) :
    Mon.Keeps cfg.cmdBulkWrite cfg.variant (sendCommand cfg c p) := by
  intro m hm
  unfold sendCommand
  cases hv : cfg.variant with
  | rm =>
    rw [hv] at hm
    obtain rfl := hm
    refine ⟨Mon.start, ?_, rfl⟩
    by_cases hc : c = cfg.cmdBulkWrite
    · simp only [if_pos hc]
      refine rmBulk_traverses cfg _ fun a ha => ?_
      obtain ⟨w, -, rfl⟩ := List.mem_map.1 ha
      exact ⟨w, rfl⟩
    · simp only [if_neg hc]
      exact rmSend_traverses hc p
  | ser =>
    rw [hv] at hm
    obtain ⟨line, cmd, rfl⟩ := hm
    exact ⟨_, serSend_traverses _ c p line cmd, _, _, rfl⟩

/-- The bracket of R150 begins and ends outside every bracket. -/
theorem claimed_traverses {cfg : Config} {as : List Act} (h : Mon.Keeps cfg.cmdBulkWrite cfg.variant as) :
    Mon.Traverses cfg.cmdBulkWrite (claimed cfg as) Mon.start Mon.start := by
  unfold claimed
  cases hv : cfg.variant with
  | rm =>
    rw [hv] at h
    obtain ⟨m, hm, rfl⟩ := h _ rfl
    exact hm
  | ser =>
    rw [hv] at h
    obtain ⟨m, hm, line, cmd, rfl⟩ := h (Mon.inClaim none none) ⟨none, none, rfl⟩
    exact .append (.cons rfl hm) (.cons rfl (.nil _ _))

/-! ### The expansions -/

theorem setWindow_keeps (cfg : Config) (c : Clip) : Mon.Keeps cfg.cmdBulkWrite cfg.variant (setWindow cfg c) :=
  (sendCommand_keeps _ _ _).append (sendCommand_keeps _ _ _)

/-- The payload of a blit: words under the bulk-write command, or chunks of at least one pixel (R107 (e)). -/
theorem sendBulkHost_keeps {cfg : Config} (hC : cfg.variant = .ser → 1 ≤ cfg.capC) (n : Nat) :
    Mon.Keeps cfg.cmdBulkWrite cfg.variant (sendBulkHost cfg n) := by
  intro m hm
  unfold sendBulkHost
  cases hv : cfg.variant with
  | rm =>
    rw [hv] at hm
    obtain rfl := hm
    refine ⟨Mon.start, rmBulk_traverses cfg _ fun a ha => ?_, rfl⟩
    obtain ⟨j, -, rfl⟩ := List.mem_map.1 ha
    exact ⟨0, rfl⟩
  | ser =>
    rw [hv] at hm
    obtain ⟨line, cmd, rfl⟩ := hm
    have hheader := (serSend_traverses cfg.cmdBulkWrite cfg.cmdBulkWrite [] line cmd).append
      (.cons (m1 := Mon.inClaim (some .data) (some cfg.cmdBulkWrite)) (a := .emitRemain (.serDc .data) (2 * n)) rfl (.nil _ _))
    refine ⟨_, hheader.append (.same fun a ha => ?_), _, _, rfl⟩
    obtain ⟨i, k, rfl, -, hk⟩ := mem_chunkLoop ha
    obtain ⟨k, rfl⟩ := Nat.exists_eq_succ_of_ne_zero (Nat.ne_of_gt (hk (hC hv)))
    simp [Act.shape, Mon.next, Mon.inClaim, Mon.onXfer, Nat.mul_succ, List.replicate_succ]

/-- Closing a transition changes no event. -/
theorem closing_shape (st : InitState) (as : List Act) : (closing st as).map Act.shape = as.map Act.shape := by
  induction as using closing.induct with
  | case1 => rfl
  | case2 e => rfl
  | case3 a r hlast ih =>
    rw [closing, List.map_cons, ih, List.map_cons]
    exact hlast

theorem closing_keeps {bulk : Byte} {v : Variant} {as : List Act} (st : InitState) (h : Mon.Keeps bulk v as) :
    Mon.Keeps bulk v (closing st as) := by
  unfold Mon.Keeps Mon.Traverses at h ⊢
  rwa [closing_shape]

theorem configureActs_keeps (cfg : Config) : Mon.Keeps cfg.cmdBulkWrite cfg.variant (configureActs cfg) := by
  have htable : ∀ table : List InitEntry,
      Mon.Keeps cfg.cmdBulkWrite cfg.variant (table.flatMap fun e => sendCommand cfg e.cmd e.params) := by
    intro table
    induction table with
    | nil => exact fun m hm => ⟨m, .nil _ _, hm⟩
    | cons x xs ih => exact (sendCommand_keeps _ _ _).append ih
  exact closing_keeps _ (htable cfg.initTable)

theorem busPhaseActs_keeps (cfg : Config) : Mon.Keeps cfg.cmdBulkWrite cfg.variant (busPhaseActs cfg) := by
  have hwait : ∀ (c : Byte) ms st, Mon.Keeps cfg.cmdBulkWrite cfg.variant
      (sendCommand cfg c [] ++ [.emitInit (.delay ms) st]) := fun c ms st =>
    (sendCommand_keeps _ _ _).append (.delay _ _ rfl)
  exact (((hwait _ _ _).append (configureActs_keeps cfg)).append (hwait _ _ _)).append (sendCommand_keeps _ _ _)

theorem probeActs_traverses (cfg : Config) :
    Mon.Traverses cfg.cmdBulkWrite (probeActs cfg) Mon.start Mon.start := by
  have hinit : Mon.Traverses cfg.cmdBulkWrite (initActs cfg) Mon.start Mon.start :=
    .append (.append (.cons rfl (.cons rfl (.cons rfl (.cons rfl (.nil _ _)))))
      (claimed_traverses (busPhaseActs_keeps cfg))) (.cons rfl (.cons rfl (.nil _ _)))
  unfold probeActs
  cases cfg.variant with
  | rm => exact .cons rfl hinit
  | ser => exact .cons rfl (.cons rfl hinit)

theorem removeActs_traverses (bulk : Byte) (free put : Bool) :
    Mon.Traverses bulk (removeActs free put) Mon.start Mon.start := by
  cases free <;> cases put
  · exact .nil _ _
  · exact .cons rfl (.nil _ _)
  · exact .cons rfl (.nil _ _)
  · exact .cons rfl (.cons rfl (.nil _ _))

theorem blitActs_traverses {cfg : Config} (hwf : cfg.wf = true) (c : Clip) :
    Mon.Traverses cfg.cmdBulkWrite (blitActs cfg c) Mon.start Mon.start :=
  claimed_traverses ((setWindow_keeps cfg c).append (sendBulkHost_keeps (one_le_capC hwf) _))

theorem fillActs_traverses {cfg : Config} (hrm : cfg.variant = .rm) (c : Clip) (color : Half) :
    Mon.Traverses cfg.cmdBulkWrite (fillActs cfg c color) Mon.start Mon.start := by
  have hwindow := setWindow_keeps cfg c
  rw [hrm] at hwindow
  obtain ⟨m, hm, rfl⟩ := hwindow _ rfl
  refine hm.append ?_
  rw [rmBulkFill_eq]
  refine rmBulk_traverses cfg _ fun a ha => ?_
  obtain ⟨w, -, rfl⟩ := List.mem_map.1 ha
  exact ⟨w, rfl⟩

/-- Every expansion is legal from outside every bracket, and ends there. -/
theorem expand_traverses {s : State} {op : Op} (hwf : s.cfg.wf = true) (hfill : op = .fill → s.cfg.variant = .rm) :
    Mon.Traverses s.cfg.cmdBulkWrite (expand s op) Mon.start Mon.start := by
  cases op with
  | probe => exact probeActs_traverses _
  | remove free put => exact removeActs_traverses _ free put
  | cmd => exact claimed_traverses (sendCommand_keeps _ _ _)
  | sync => exact blitActs_traverses hwf _
  | syncr => exact blitActs_traverses hwf _
  | fill => exact fillActs_traverses (hfill rfl) _ _

end Sys2Proof.Machine

/-! PROOFS. The observer against the device bits, and its step over the events of a run and of an abort. -/

namespace Sys2Proof.Machine

open Sys2Proof

/-! ### The observer and the bits -/

/-- The observer sees the select bit and the bus as the device bits have them. -/
def Mon.Agrees (m : Mon) (b : Bits) : Prop := m.sel = b.selOn ∧ m.held = b.held

/-- Outside a bracket the observer remembers nothing of it, and the two brackets exclude each other. -/
structure Mon.Tidy (m : Mon) : Prop where
  rmCmd : m.sel = false → m.rmCmd = none
  serFrame : m.held = false → m.line = none ∧ m.serCmd = none
  apart : m.sel = false ∨ m.held = false

theorem Mon.start_tidy : Mon.start.Tidy := ⟨fun _ => rfl, fun _ => ⟨rfl, rfl⟩, .inl rfl⟩

theorem Mon.Tidy.eq_start {m : Mon} (h : m.Tidy) (hsel : m.sel = false) (hheld : m.held = false) : m = Mon.start := by
  obtain ⟨sel, rmCmd, held, line, serCmd⟩ := m
  obtain ⟨hcmd, hser, -⟩ := h
  obtain ⟨hline, hserCmd⟩ := hser hheld
  simp_all [Mon.start]

theorem Mon.onXfer_some {bulk : Byte} {m m' : Mon} {bs : List Byte} {ok : Bool} (h : m.onXfer bulk bs ok = some m') :
    m'.sel = m.sel ∧ m'.held = m.held ∧ m'.rmCmd = m.rmCmd := by
  unfold Mon.onXfer at h
  split at h
  · cases ok <;> cases h <;> exact ⟨rfl, rfl, rfl⟩
  · cases h
    exact ⟨rfl, rfl, rfl⟩
  · split at h <;> cases h
    exact ⟨rfl, rfl, rfl⟩
  · cases h

theorem Mon.next_tidy {bulk : Byte} {m m' : Mon} {x : Entry} (h : Mon.next bulk m x = some m') (hm : m.Tidy) :
    m'.Tidy := by
  obtain ⟨hcmd, hser, hapart⟩ := hm
  obtain ⟨e, ok⟩ := x
  cases e <;> simp [Mon.next] at h
  case serXfer bs =>
    obtain ⟨hsel, hheld, hrm⟩ := Mon.onXfer_some h.2
    exact ⟨by simp_all, by simp_all, by simp_all⟩
  case serDc l =>
    obtain ⟨hheld, rfl⟩ := h
    cases ok <;> cases l <;> exact ⟨by simp_all, by simp_all, by simp_all⟩
  all_goals
    obtain ⟨hguard, rfl⟩ := h
    exact ⟨by simp_all, by simp_all, by simp_all⟩

/-- A completed event moves the observer and the bits alike. -/
theorem Mon.next_agrees {bulk : Byte} {m m' : Mon} {e : Event} (h : Mon.next bulk m ⟨e, true⟩ = some m') (v : Variant)
    {b : Bits} (hb : m.Agrees b) : m'.Agrees (e.onBits v b) := by
  obtain ⟨hsel, hheld⟩ := hb
  cases e <;> simp [Mon.next] at h
  case serXfer bs =>
    obtain ⟨hsel', hheld', -⟩ := Mon.onXfer_some h.2
    exact ⟨hsel'.trans hsel, hheld'.trans hheld⟩
  case serDc l =>
    obtain ⟨-, rfl⟩ := h
    cases l <;> exact ⟨hsel, hheld⟩
  all_goals
    obtain ⟨hguard, rfl⟩ := h
    exact ⟨by simp_all [Event.onBits], by simp_all [Event.onBits]⟩

theorem Act.onBits_shape (a : Act) (v : Variant) (b : Bits) : ∃ i, a.onBits v b = { a.shape.onBits v b with init := i } := by
  cases a <;> exact ⟨_, rfl⟩

theorem Mon.Traverses.agrees {bulk : Byte} {as : List Act} {m m' : Mon} (h : Mon.Traverses bulk as m m') (v : Variant)
    {b : Bits} (hb : m.Agrees b) (hm : m.Tidy) : m'.Agrees (bitsAfter v as b) ∧ m'.Tidy := by
  induction as generalizing m b with
  | nil =>
    cases h
    exact ⟨hb, hm⟩
  | cons a as ih =>
    unfold Mon.Traverses at h
    rw [List.map_cons, allOk, List.map_cons, Mon.run_cons, Option.bind_eq_some_iff] at h
    obtain ⟨m1, hnext, hrest⟩ := h
    obtain ⟨i, hi⟩ := a.onBits_shape v b
    have hstep := Mon.next_agrees hnext v hb
    have hentry : m1.Agrees (a.onBits v b) := by
      rw [hi]
      exact hstep
    exact ih hrest hentry (Mon.next_tidy hnext hm)

/-- Where entries can be traversed, so can those before any position, and then the entry there. -/
theorem Mon.Traverses.at {bulk : Byte} {as : List Act} {m m' : Mon} (h : Mon.Traverses bulk as m m') {k : Nat} {a : Act}
    (ha : as[k]? = some a) :
    ∃ m1 m2, Mon.Traverses bulk (as.take k) m m1 ∧ Mon.next bulk m1 ⟨a.shape, true⟩ = some m2 ∧
      Mon.Traverses bulk (as.take (k + 1)) m m2 := by
  obtain ⟨hlt, hget⟩ := List.getElem?_eq_some_iff.1 ha
  have hsplit : as = as.take k ++ a :: as.drop (k + 1) := by
    rw [← hget, ← List.drop_eq_getElem_cons hlt, List.take_append_drop]
  have htake : as.take (k + 1) = as.take k ++ [a] := by rw [List.take_add_one, ha]; rfl
  unfold Mon.Traverses at h
  rw [hsplit, List.map_append, allOk_append, Mon.run_append, Option.bind_eq_some_iff] at h
  obtain ⟨m1, h1, h2⟩ := h
  rw [List.map_cons, allOk, List.map_cons, Mon.run_cons, Option.bind_eq_some_iff] at h2
  obtain ⟨m2, hnext, -⟩ := h2
  refine ⟨m1, m2, h1, hnext, ?_⟩
  rw [htake]
  exact Mon.Traverses.append h1 (.cons hnext (.nil _ _))

/-! ### The event an entry emits, as the observer sees it -/

/-- Two transactions of the same even length look alike. -/
theorem Mon.onXfer_even (bulk : Byte) (m : Mon) {bs bs' : List Byte} {k : Nat} (ok : Bool) (h : bs.length = 2 * k)
    (h' : bs'.length = 2 * k) : m.onXfer bulk bs ok = m.onXfer bulk bs' ok := by
  rcases bs with _ | ⟨b0, _ | ⟨b1, bs⟩⟩ <;> rcases bs' with _ | ⟨b0', _ | ⟨b1', bs'⟩⟩ <;> simp at h h' <;> try omega
  · rfl
  · obtain ⟨sel, rmCmd, held, line, serCmd⟩ := m
    cases line with
    | none => rfl
    | some l => cases l <;> cases serCmd <;> rfl

theorem chunkBytes_length {le : Bool} {tb : List Half} {k : Nat} (h : k ≤ tb.length) :
    (chunkBytes le tb k).length = 2 * k := by
  have hwire : ∀ w, (wireBytes le w).length = 2 := by
    intro w
    cases le <;> rfl
  simp [chunkBytes, List.length_flatMap, hwire, Nat.min_eq_left h, Nat.mul_comm]

/-- The payload of an entry is of no matter to the observer. -/
theorem Mon.next_of_prep {a : Act} {s s1 : State} {e : Event} (hp : a.prep s = some (s1, e)) (bulk : Byte) (m : Mon)
    (ok : Bool) : Mon.next bulk m ⟨e, ok⟩ = Mon.next bulk m ⟨a.shape, ok⟩ := by
  cases a with
  | emit e' => cases hp; rfl
  | emitInit e' st => cases hp; rfl
  | emitRemain e' n => cases hp; rfl
  | word w => cases hp; rfl
  | wordHost j =>
    obtain ⟨w, -, hw⟩ := Option.map_eq_some_iff.1 hp
    cases hw
    rfl
  | chunk i k =>
    obtain ⟨u, hu, hue⟩ := Option.map_eq_some_iff.1 hp
    cases hue
    obtain ⟨ws, hws, rfl⟩ := Option.map_eq_some_iff.1 hu
    have hlen := chunkBytes_length (le := s.cfg.hostLE) (tb := ws ++ s.tbuf.drop k) (k := k)
      (by simp [pixelWords_length hws])
    simp only [Mon.next, Act.shape]
    rw [Mon.onXfer_even bulk m ok hlen (List.length_replicate ..)]

/-! ### The abort -/

/-- A failed event that may stand where it stands leaves the observer outside every select bracket, with the bus as
it was. -/
theorem Mon.next_failed {bulk : Byte} {m m1 : Mon} {e : Event} {v : Variant}
    (h : Mon.next bulk m ⟨e, true⟩ = some m1) (hf : e.fallible v = true) (hm : m.Tidy) :
    m.sel = false ∧ ∃ m2, Mon.next bulk m ⟨e, false⟩ = some m2 ∧ m2.sel = false ∧ m2.held = m.held := by
  cases e <;> simp [Event.fallible] at hf <;> simp [Mon.next] at h
  case serClaim =>
    obtain ⟨⟨hheld, hsel⟩, -⟩ := h
    exact ⟨hsel, { m with held := false }, by simp [Mon.next, hheld, hsel], hsel, hheld.symm⟩
  case serDc l =>
    obtain ⟨hheld, -⟩ := h
    have hsel : m.sel = false := hm.apart.resolve_right (by simp [hheld])
    exact ⟨hsel, m, by simp [Mon.next, hheld], hsel, rfl⟩
  case serXfer bs =>
    obtain ⟨hheld, hxfer⟩ := h
    have hsel : m.sel = false := hm.apart.resolve_right (by simp [hheld])
    obtain ⟨m2, hm2⟩ : ∃ m2, m.onXfer bulk bs false = some m2 := by
      unfold Mon.onXfer at hxfer ⊢
      split at hxfer <;> simp_all
    obtain ⟨hsel', hheld', -⟩ := Mon.onXfer_some hm2
    exact ⟨hsel, m2, by simp [Mon.next, hheld, hm2], hsel'.trans hsel, hheld'⟩
  all_goals
    obtain ⟨⟨hsel, hheld⟩, -⟩ := h
    exact ⟨hsel, m, by simp [Mon.next, hheld, hsel], hsel, rfl⟩

/-- Releasing a held bus takes the observer to where it started. -/
theorem Mon.run_release {m : Mon} (bulk : Byte) (hm : m.Tidy) (hsel : m.sel = false) :
    Mon.run bulk m (if m.held then [⟨.serRelease, true⟩] else []) = some Mon.start := by
  cases hheld : m.held with
  | false => simp [hm.eq_start hsel hheld]
  | true =>
    have hnext : Mon.next bulk m ⟨.serRelease, true⟩ = some Mon.start := by
      obtain ⟨sel, rmCmd, held, line, serCmd⟩ := m
      have hcmd := hm.rmCmd hsel
      simp_all [Mon.next, Mon.start]
    simp [Mon.run_cons, hnext]

end Sys2Proof.Machine

/-! PROOFS. The invariant of 10_state.md R42, extended to operations in flight, and the legality of the trace: every
step keeps both. -/

namespace Sys2Proof.Machine

open Sys2Proof

/-! ### The TransferBuffer's length -/

/-- The buffer has `C` words while it is allocated, none otherwise (R28). -/
def State.TbufOk (s : State) : Prop := s.tbuf.length = if s.tbufValid then s.cfg.capC else 0

theorem apply_tbufOk (e : Event) {s : State} (h : s.TbufOk) : (e.apply s).TbufOk := by
  cases e <;> try exact h
  case resGet => cases hv : s.cfg.variant <;> simpa [State.TbufOk, Event.apply, hv] using h
  case resAlloc => simp [State.TbufOk, Event.apply, State.freshTbuf]
  case resFree => rfl

/-- A chunk that fits the allocated buffer overwrites its first words. -/
theorem prep_tbufOk {a : Act} {s s1 : State} {e : Event} (hp : a.prep s = some (s1, e))
    (hfit : ∀ i k, a = .chunk i k → s.tbufValid = true ∧ k ≤ s.cfg.capC) (h : s.TbufOk) : s1.TbufOk := by
  cases a with
  | chunk i k =>
    obtain ⟨hvalid, hk⟩ := hfit i k rfl
    obtain ⟨u, hu, hue⟩ := Option.map_eq_some_iff.1 hp
    cases hue
    obtain ⟨ws, hws, rfl⟩ := Option.map_eq_some_iff.1 hu
    simp only [State.TbufOk, hvalid, if_true] at h ⊢
    simp [pixelWords_length hws, h]
    omega
  | wordHost j =>
    obtain ⟨w, -, hw⟩ := Option.map_eq_some_iff.1 hp
    cases hw
    exact h
  | _ =>
    cases hp
    exact h

theorem advanced_tbufOk {op : Op} {a : Act} {s t : State} (hadv : performAct op a s = .advanced t)
    (hfit : ∀ i k, a = .chunk i k → s.tbufValid = true ∧ k ≤ s.cfg.capC) (h : s.TbufOk) : t.TbufOk := by
  have heffect : (a.effect s).TbufOk := by
    unfold Act.effect
    split
    · exact h
    · rename_i s1 e hp
      have happly := apply_tbufOk e (prep_tbufOk hp hfit h)
      simpa [State.TbufOk] using happly
  rw [performAct_advanced_effect hadv]
  exact heffect

theorem takeAbort_tbufOk (op : Op) (k : Status) {u : State} (h : u.TbufOk) : (takeAbort op k u).TbufOk := by
  by_cases hop : op = .probe
  · subst hop
    cases hv : u.tbufValid <;> simp_all [State.TbufOk, takeAbort_probe, destroyRecord_eq]
  · simpa [State.TbufOk, takeAbort_eq hop] using h

/-! ### Entries of the expansions -/

/-- Commands are made of fixed events and fixed words. -/
theorem sendCommand_forall {P : Act → Prop} (hemit : ∀ e, P (.emit e)) (hremain : ∀ e m, P (.emitRemain e m))
    (hword : ∀ w, P (.word w)) (cfg : Config) (c : Byte) (p : List Byte) : ∀ a ∈ sendCommand cfg c p, P a := by
  have emits : ∀ es : List Event, ∀ a ∈ es.map Act.emit, P a := by
    intro es a ha
    obtain ⟨e, -, rfl⟩ := List.mem_map.1 ha
    exact hemit e
  unfold sendCommand
  cases cfg.variant with
  | ser =>
    simp only [serSend_eq]
    exact emits _
  | rm =>
    dsimp only
    split
    · simp only [rmBulkInline, rmBulk, List.mem_append, List.mem_cons, List.not_mem_nil, or_false, List.mem_map]
      rintro a (((rfl | rfl) | ⟨w, -, rfl⟩) | rfl)
      · exact hemit _
      · exact hremain _ _
      · exact hword w
      · exact hemit _
    · rw [rmSend_eq]
      exact emits _

theorem claimed_forall {P : Act → Prop} (hemit : ∀ e, P (.emit e)) {cfg : Config} {as : List Act} (h : ∀ a ∈ as, P a) :
    ∀ a ∈ claimed cfg as, P a := by
  unfold claimed
  cases cfg.variant with
  | rm => exact h
  | ser =>
    simp only [List.cons_append, List.mem_cons, List.mem_append, List.not_mem_nil, or_false]
    rintro a (rfl | ha | rfl)
    · exact hemit _
    · exact h a ha
    · exact hemit _

theorem closing_forall {P : Act → Prop} (hinit : ∀ e st, P (.emitInit e st)) (st : InitState) {as : List Act}
    (h : ∀ a ∈ as, P a) : ∀ a ∈ closing st as, P a := by
  induction as using closing.induct with
  | case1 => exact h
  | case2 e =>
    intro a ha
    obtain rfl := List.mem_singleton.1 ha
    exact hinit e st
  | case3 a r hlast ih =>
    rw [closing]
    · intro b hb
      rcases List.mem_cons.1 hb with rfl | hb
      · exact h b (by simp)
      · exact ih (fun c hc => h c (by simp [hc])) b hb
    · exact hlast

/-- PROBE is made of fixed events, closings of transitions, and the seventeen commands. -/
theorem probeActs_forall {P : Act → Prop} (hemit : ∀ e, P (.emit e)) (hinit : ∀ e st, P (.emitInit e st))
    (cfg : Config) (hcmd : ∀ x ∈ Expect.initCommands cfg, ∀ a ∈ sendCommand cfg x.1 x.2, P a) :
    ∀ a ∈ probeActs cfg, P a := by
  have hsoft := hcmd (cfg.cmdSoftReset, []) (by simp [Expect.initCommands])
  have hsleep := hcmd (cfg.cmdSleepExit, []) (by simp [Expect.initCommands])
  have hdisplay := hcmd (cfg.cmdDisplayOn, []) (by simp [Expect.initCommands])
  have htable : ∀ a ∈ cfg.initTable.flatMap fun e => sendCommand cfg e.cmd e.params, P a := by
    intro a ha
    obtain ⟨e, he, ha⟩ := List.mem_flatMap.1 ha
    exact hcmd (e.cmd, e.params) (by
      simp only [Expect.initCommands, List.cons_append, List.mem_cons, List.mem_append, List.mem_map]
      exact .inr (.inl ⟨e, he, rfl⟩)) a ha
  have hphase : ∀ a ∈ busPhaseActs cfg, P a := by
    simp only [busPhaseActs, softResetActs, sleepExitActs, configureActs, List.mem_append, List.mem_singleton]
    rintro a ((((ha | rfl) | ha) | (ha | rfl)) | ha)
    · exact hsoft a ha
    · exact hinit _ _
    · exact closing_forall hinit _ htable a ha
    · exact hsleep a ha
    · exact hinit _ _
    · exact hdisplay a ha
  have hinitActs : ∀ a ∈ initActs cfg, P a := by
    simp only [initActs, hardResetActs, List.mem_append, List.mem_cons, List.not_mem_nil, or_false]
    rintro a (((rfl | rfl | rfl | rfl) | ha) | (rfl | rfl))
    · exact hemit _
    · exact hemit _
    · exact hemit _
    · exact hinit _ _
    · exact claimed_forall hemit hphase a ha
    · exact hemit _
    · exact hinit _ _
  unfold probeActs
  cases cfg.variant with
  | rm =>
    intro a ha
    rcases List.mem_cons.1 ha with rfl | ha
    · exact hemit _
    · exact hinitActs a ha
  | ser =>
    intro a ha
    rcases List.mem_cons.1 ha with rfl | ha
    · exact hemit _
    · rcases List.mem_cons.1 ha with rfl | ha
      · exact hemit _
      · exact hinitActs a ha

/-- Chunks are sent by the serial blit alone, and fit the buffer. -/
theorem chunk_mem_expand {s : State} {op : Op} {i k : Nat} (h : Act.chunk i k ∈ expand s op)
    (hfill : op = .fill → s.cfg.variant = .rm) : op.IsBlitOp ∧ s.cfg.variant = .ser ∧ k ≤ s.cfg.capC := by
  have hcommand : ∀ c p, Act.chunk i k ∉ sendCommand s.cfg c p := fun c p hmem =>
    sendCommand_forall (P := (· ≠ .chunk i k)) (by simp) (by simp) (by simp) s.cfg c p _ hmem rfl
  have hblit : ∀ c, Act.chunk i k ∈ blitActs s.cfg c → s.cfg.variant = .ser ∧ k ≤ s.cfg.capC := by
    intro c hmem
    have hser : s.cfg.variant = .ser := blitActs_onPort s.cfg c _ hmem
    refine ⟨hser, ?_⟩
    simp only [blitActs, claimed, hser, setWindow, sendBulkHost, serBulk, serSend_eq, List.cons_append, List.mem_cons,
      List.mem_append, List.mem_map] at hmem
    have hloop : Act.chunk i k ∈ chunkLoop s.cfg.capC (pixelCount c) 0 (pixelCount c) := by
      have h1 := hcommand s.cfg.cmdColAddr (resolveCol c)
      have h2 := hcommand s.cfg.cmdRowAddr (resolveRow c)
      simp_all
    obtain ⟨j, k', hk, hle, -⟩ := mem_chunkLoop hloop
    cases hk
    exact hle
  cases op with
  | probe =>
    exact absurd rfl (probeActs_forall (P := (· ≠ .chunk i k)) (by simp) (by simp) s.cfg
      (fun x _ a ha he => hcommand x.1 x.2 (he ▸ ha)) _ h)
  | remove free put => cases free <;> cases put <;> simp [expand, removeActs] at h
  | cmd =>
    exact absurd rfl (claimed_forall (P := (· ≠ .chunk i k)) (by simp) (fun a ha he => hcommand _ _ (he ▸ ha)) _ h)
  | sync => exact ⟨.inl rfl, hblit _ h⟩
  | syncr => exact ⟨.inr rfl, hblit _ h⟩
  | fill =>
    have hser : s.cfg.variant = .ser := fillActs_onPort (hfill rfl) _ _ _ h
    exact absurd (hfill rfl) (by simp [hser])

/-! ### The bits that an expansion leaves -/

/-- Traffic of the transport moves the bus and the select bit alone. -/
theorem onPort_bits {v : Variant} {as : List Act} (h : ∀ a ∈ as, a.OnPort v) (v' : Variant) (b : Bits) :
    ∃ held sel, bitsAfter v' as b = { b with held := held, selOn := sel } := by
  have hevent : ∀ (e : Event), e.onPort v = true → ∀ b : Bits, ∃ held sel,
      e.onBits v' b = { b with held := held, selOn := sel } := by
    intro e he b
    cases v with
    | rm =>
      cases e <;> simp [Event.onPort, Event.isRegisterWrite] at he
      all_goals exact ⟨_, _, rfl⟩
    | ser =>
      cases e <;> simp [Event.onPort, Event.isSerial] at he
      all_goals exact ⟨_, _, rfl⟩
  induction as generalizing b with
  | nil => exact ⟨b.held, b.selOn, rfl⟩
  | cons a as ih =>
    have hfirst : ∃ held sel, a.onBits v' b = { b with held := held, selOn := sel } := by
      have ha := h a (by simp)
      cases a with
      | emit e => exact hevent e ha b
      | emitInit e st => exact ha.elim
      | emitRemain e m => exact hevent e ha b
      | word w => exact ⟨_, _, rfl⟩
      | wordHost j => exact ⟨_, _, rfl⟩
      | chunk i k => exact ⟨_, _, rfl⟩
    obtain ⟨h1, s1, hb1⟩ := hfirst
    obtain ⟨h2, s2, hb2⟩ := ih (fun a ha => h a (by simp [ha])) { b with held := h1, selOn := s1 }
    refine ⟨h2, s2, ?_⟩
    rw [bitsAfter, List.foldl_cons, hb1]
    exact hb2

/-- PROBE from nothing leaves a ready device, but for `DEV_VALID` (R285). -/
theorem probeActs_bits {cfg : Config} (hwf : cfg.wf = true) :
    bitsAfter cfg.variant (probeActs cfg) Bits.down = { Bits.up cfg.variant with dev := false } := by
  have heffects := effects_bits (probeActs cfg) (State.resetWith cfg)
  rw [show (State.resetWith cfg).bits = Bits.down from rfl, show (State.resetWith cfg).cfg = cfg from rfl] at heffects
  rw [← heffects]
  cases hv : cfg.variant with
  | rm =>
    have hget : (Act.emit .resGet).effect (State.resetWith cfg) = State.resetWith cfg := by
      simp [Event.apply, State.resetWith, hv]
    have hacts : effects (probeActs cfg) (State.resetWith cfg) = effects (initActs cfg) (State.resetWith cfg) := by
      simp only [probeActs, hv, List.cons_append, List.nil_append, effects_cons, hget]
    rw [hacts, effects_initActs_rm hwf hv]
    rfl
  | ser =>
    have hacts : effects (probeActs cfg) (State.resetWith cfg) =
        effects (initActs cfg) { State.resetWith cfg with
          linesValid := true, tbufValid := true, tbuf := (State.resetWith cfg).freshTbuf, allocs := 1 } := by
      simp [probeActs, hv, Event.apply, State.resetWith]
      rfl
    rw [hacts, effects_initActs_ser hwf hv]
    rfl

theorem complete_bits (op : Op) (s : State) : (complete op s).bits = match op with
    | .probe => { s.bits with dev := true }
    | .remove _ _ => { s.bits with dev := false, init := .unreset, bl := false }
    | _ => s.bits := by
  cases op <;> rfl

theorem takeAbort_bits (op : Op) (k : Status) (u : State) : (takeAbort op k u).bits =
    if op = .probe then { Bits.down with selOn := u.bits.selOn } else { u.bits with held := false } := by
  by_cases hop : op = .probe
  · subst hop
    rw [if_pos rfl]
    simp [State.bits, takeAbort_probe, destroyRecord_eq, Bits.down]
  · rw [if_neg hop]
    simp [State.bits, takeAbort_eq hop]

/-- The observer that starts an operation sees the bits it may start from. -/
theorem Op.startsFrom.agrees {op : Op} {v : Variant} {b : Bits} (h : op.startsFrom v b) : Mon.start.Agrees b := by
  have hboth : ∀ b, b = Bits.down ∨ b = Bits.up v → Mon.start.Agrees b := by
    rintro b (rfl | rfl) <;> exact ⟨rfl, rfl⟩
  cases op with
  | probe => exact hboth b (.inl h)
  | remove free put => exact hboth b h.1
  | fill => exact hboth b (.inr h.1)
  | _ => exact hboth b (.inr h)

theorem Op.startsFrom.up {op : Op} {v : Variant} {b : Bits} (h : op.startsFrom v b) (hop : op.IsTransport) :
    b = Bits.up v := by
  rcases hop with rfl | (rfl | rfl) | rfl
  · exact h
  · exact h
  · exact h
  · exact h.1

theorem Op.startsFrom.fill_rm {op : Op} {v : Variant} {b : Bits} (h : op.startsFrom v b) (hop : op = .fill) : v = .rm := by
  subst hop
  exact h.2

/-! ### One step of the sequencer -/

theorem State.Inv.tbufOk {s : State} (h : s.Inv) : s.TbufOk := h.tbufLen

/-- The parts of the invariant that no part of an operation writes. -/
theorem State.Inv.of_same {s t : State} (h : s.Inv) (hs : SameOperands s t) (htbuf : t.TbufOk) (hseq : t.SeqInv) :
    t.Inv where
  cfgWf := hs.cfg ▸ h.cfgWf
  memWf := hs.mem ▸ h.memWf
  paramLen := by rw [hs.frame, hs.cfg]; exact h.paramLen
  plenLe := by rw [hs.frame, hs.cfg]; exact h.plenLe
  tbufLen := htbuf
  seqInv := hseq

theorem SeqInv_of_idle {t : State} (hidle : t.seq = .idle) (h : t.bits = Bits.down ∨ t.bits = Bits.up t.cfg.variant) :
    t.SeqInv := by
  rw [State.SeqInv, hidle]
  exact h

theorem SeqInv_of_busy {t : State} {op : Op} {k : Nat} {b : Bits} (hs : t.seq = .busy op k)
    (hk : k ≤ (expand t op).length) (hb : op.startsFrom t.cfg.variant b)
    (hbits : t.bits = bitsAfter t.cfg.variant ((expand t op).take k) b) : t.SeqInv := by
  rw [State.SeqInv, hs]
  exact ⟨hk, b, hb, hbits⟩

/-- The invariant in flight. -/
theorem State.Inv.busy {s : State} (h : s.Inv) {op : Op} {k : Nat} (hs : s.seq = .busy op k) :
    k ≤ (expand s op).length ∧ ∃ b, op.startsFrom s.cfg.variant b ∧
      s.bits = bitsAfter s.cfg.variant ((expand s op).take k) b := by
  have hseq := h.seqInv
  rwa [State.SeqInv, hs] at hseq

/-- What an operation in flight owes to where it started: its expansion is legal, and its transport stays a ready
device's. -/
structure InFlight (s : State) (op : Op) (k : Nat) (b : Bits) : Prop where
  pos : k ≤ (expand s op).length
  starts : op.startsFrom s.cfg.variant b
  bits : s.bits = bitsAfter s.cfg.variant ((expand s op).take k) b
  fill : op = .fill → s.cfg.variant = .rm
  legal : Mon.Traverses s.cfg.cmdBulkWrite (expand s op) Mon.start Mon.start
  transport : op.IsTransport → ∃ held sel, s.bits = { Bits.up s.cfg.variant with held := held, selOn := sel }

theorem State.Inv.inFlight {s : State} (h : s.Inv) {op : Op} {k : Nat} (hs : s.seq = .busy op k) :
    ∃ b, InFlight s op k b := by
  obtain ⟨hk, b, hb, hbits⟩ := h.busy hs
  have hfill : op = .fill → s.cfg.variant = .rm := hb.fill_rm
  refine ⟨b, hk, hb, hbits, hfill, expand_traverses h.cfgWf hfill, fun hop => ?_⟩
  have hport : ∀ a ∈ (expand s op).take k, a.OnPort s.cfg.variant := fun a ha =>
    expand_onPort hop hfill a (List.mem_of_mem_take ha)
  obtain ⟨held, sel, hbits'⟩ := onPort_bits hport s.cfg.variant b
  exact ⟨held, sel, by rw [hbits, hbits', hb.up hop]⟩

/-- The observer after the first `k` entries sees the bits of the state in flight. -/
theorem InFlight.observer {s : State} {op : Op} {k : Nat} {b : Bits} (h : InFlight s op k b) {m : Mon}
    (hm : Mon.Traverses s.cfg.cmdBulkWrite ((expand s op).take k) Mon.start m) : m.Agrees s.bits ∧ m.Tidy := by
  rw [h.bits]
  exact hm.agrees s.cfg.variant h.starts.agrees Mon.start_tidy

/-- A chunk in flight finds the buffer allocated and large enough. -/
theorem InFlight.chunk_fits {s : State} {op : Op} {k : Nat} {b : Bits} (h : InFlight s op k b) {a : Act}
    (ha : (expand s op)[k]? = some a) : ∀ i n, a = .chunk i n → s.tbufValid = true ∧ n ≤ s.cfg.capC := by
  rintro i n rfl
  obtain ⟨hblit, hser, hn⟩ := chunk_mem_expand (List.mem_of_getElem? ha) h.fill
  obtain ⟨held, sel, hbits⟩ := h.transport (.inr (.inl hblit))
  have htbuf : s.bits.tbufV = true := by
    rw [hbits, hser]
    rfl
  exact ⟨htbuf, hn⟩

theorem Op.cases_transport (op : Op) : op = .probe ∨ (∃ free put, op = .remove free put) ∨ op.IsTransport := by
  cases op with
  | probe => exact .inl rfl
  | remove free put => exact .inr (.inl ⟨free, put, rfl⟩)
  | cmd => exact .inr (.inr (.inl rfl))
  | sync => exact .inr (.inr (.inr (.inl (.inl rfl))))
  | syncr => exact .inr (.inr (.inr (.inl (.inr rfl))))
  | fill => exact .inr (.inr (.inr (.inr rfl)))

/-- A completed operation leaves no device or a ready one. -/
theorem InFlight.complete_bits {s : State} {op : Op} {b : Bits} {k : Nat} (h : InFlight s op k b)
    (hk : (expand s op).length ≤ k) (hwf : s.cfg.wf = true) :
    (complete op s).bits = Bits.down ∨ (complete op s).bits = Bits.up s.cfg.variant := by
  have hbits := h.bits
  have hobs := h.observer (m := Mon.start) (by rw [List.take_of_length_le hk]; exact h.legal)
  rw [List.take_of_length_le hk] at hbits
  rw [Machine.complete_bits]
  rcases op.cases_transport with rfl | ⟨free, put, rfl⟩ | hop
  · obtain rfl : b = Bits.down := h.starts
    right
    rw [hbits]
    show { bitsAfter s.cfg.variant (probeActs s.cfg) Bits.down with dev := true } = _
    rw [probeActs_bits hwf]
    rfl
  · left
    obtain ⟨hb, hfree, hput⟩ := h.starts
    rw [hbits]
    rcases hb with rfl | rfl <;> subst hfree <;> subst hput
    · rfl
    · cases s.cfg.variant <;> rfl
  · right
    obtain ⟨held, sel, hup⟩ := h.transport hop
    obtain ⟨hsel, hheld⟩ := hobs.1
    rw [hup] at hsel hheld
    obtain rfl : false = sel := hsel
    obtain rfl : false = held := hheld
    rcases hop with rfl | (rfl | rfl) | rfl <;> exact hup

/-- What a failed event of an operation in flight leaves for the abort. -/
theorem aborted_cases {op : Op} {a : Act} {s t : State} (h : performAct op a s = .aborted t) :
    ∃ s1 e ans rest, a.prep s = some (s1, e) ∧ e.fallible s.cfg.variant = true ∧ s.answers = ans :: rest ∧
      t = takeAbort op (e.failStatus ans) (State.record { s1 with answers := rest } e false) := by
  rcases performAct_cases op a s with ⟨-, hres⟩ | ⟨s1, e, hp, ⟨-, -, hres⟩ | ⟨hf, x, r, hans, -, hres⟩ | ⟨-, hres⟩ |
    ⟨-, r, -, hres⟩⟩ <;> rw [h] at hres
  case inr.inr.inl => exact ⟨s1, e, x, r, hp, hf, hans, ActResult.aborted.inj hres⟩
  all_goals cases hres

/-- The observer at a failed event: outside every select bracket, and so is the state. -/
theorem InFlight.failed {s s1 : State} {op : Op} {k : Nat} {b : Bits} (h : InFlight s op k b) {a : Act} {e : Event}
    (ha : (expand s op)[k]? = some a) (hp : a.prep s = some (s1, e)) (hf : e.fallible s.cfg.variant = true) :
    s.bits.selOn = false ∧ ∃ m m2, Mon.Traverses s.cfg.cmdBulkWrite ((expand s op).take k) Mon.start m ∧
      Mon.next s.cfg.cmdBulkWrite m ⟨e, false⟩ = some m2 ∧ m2.Tidy ∧ m2.sel = false ∧ m2.held = s.bits.held := by
  obtain ⟨m, m1, hm, hnext, -⟩ := h.legal.at ha
  obtain ⟨⟨hsel, hheld⟩, htidy⟩ := h.observer hm
  rw [← Mon.next_of_prep hp] at hnext
  obtain ⟨hmsel, m2, hm2, hsel2, hheld2⟩ := Mon.next_failed hnext hf htidy
  exact ⟨hsel ▸ hmsel, m, m2, hm, hm2, Mon.next_tidy hm2 htidy, hsel2, hheld2.trans hheld⟩

/-- No event of REMOVE can fail. -/
theorem removeActs_infallible {free put : Bool} {a : Act} (ha : a ∈ removeActs free put) {s s1 : State} {e : Event}
    (hp : a.prep s = some (s1, e)) (v : Variant) : e.fallible v = false := by
  have hemit : a = .emit .resFree ∨ a = .emit .resPut := by
    revert ha
    cases free <;> cases put <;> simp +contextual [removeActs]
  rcases hemit with rfl | rfl <;> cases hp <;> rfl

/-- An aborted operation leaves no device or a ready one. -/
theorem InFlight.aborted_bits {s t : State} {op : Op} {k : Nat} {b : Bits} (h : InFlight s op k b) {a : Act}
    (ha : (expand s op)[k]? = some a) (hab : performAct op a s = .aborted t) :
    t.bits = Bits.down ∨ t.bits = Bits.up s.cfg.variant := by
  obtain ⟨s1, e, ans, rest, hp, hf, -, rfl⟩ := aborted_cases hab
  have hbits : (State.record { s1 with answers := rest } e false).bits = s.bits := (prep_bits hp :)
  obtain ⟨hsel, -⟩ := h.failed ha hp hf
  rw [takeAbort_bits, hbits]
  rcases op.cases_transport with rfl | ⟨free, put, rfl⟩ | hop
  · left
    rw [if_pos rfl, hsel]
    rfl
  · exact absurd hf (by simp [removeActs_infallible (List.mem_of_getElem? ha) hp])
  · right
    obtain ⟨held, sel, hup⟩ := h.transport hop
    rw [if_neg hop.ne_probe]
    rw [hup] at hsel ⊢
    obtain rfl : sel = false := hsel
    rfl

/-- One step of the sequencer keeps the invariant. -/
theorem seqStep_keeps_inv {s t : State} (h : s.Inv) (hstep : seqStep s = .next t) : t.Inv := by
  cases hs : s.seq with
  | idle =>
    simp only [seqStep, hs] at hstep
    obtain rfl := Host.Outcome.next.inj hstep
    exact h
  | busy op k =>
    obtain ⟨b, hfl⟩ := h.inFlight hs
    have hsame := seqStep_same hs hstep
    rcases seqStep_next hs hstep with ⟨hk, rfl⟩ | ⟨a, ha, ⟨-, rfl⟩ | hab | hadv⟩
    · refine h.of_same hsame ?_ (SeqInv_of_idle rfl (by rw [hsame.cfg]; exact hfl.complete_bits hk h.cfgWf))
      have htbuf := h.tbufOk
      cases op <;> exact htbuf
    · exact h
    · refine h.of_same hsame ?_
        (SeqInv_of_idle (performAct_aborted hab).2.1 (by rw [hsame.cfg]; exact hfl.aborted_bits ha hab))
      obtain ⟨s1, e, ans, rest, hp, -, -, rfl⟩ := aborted_cases hab
      have htbuf : s1.TbufOk := prep_tbufOk hp (hfl.chunk_fits ha) h.tbufOk
      exact takeAbort_tbufOk op _ htbuf
    · have hlt := (List.getElem?_eq_some_iff.1 ha).1
      have hexpand := expand_congr hsame op
      refine h.of_same hsame (advanced_tbufOk hadv (hfl.chunk_fits ha) h.tbufOk)
        (SeqInv_of_busy (b := b) ((performAct_advanced hadv).2.2.2.2 op k hs) ?_ ?_ ?_)
      · rw [hexpand]
        exact hlt
      · rw [hsame.cfg]
        exact hfl.starts
      · have hbits : t.bits = (a.effect s).bits := by
          rw [performAct_advanced_effect hadv]
          rfl
        rw [hexpand, hsame.cfg, List.take_add_one, ha, hbits, effect_bits, hfl.bits]
        simp [bitsAfter]

/-! ### The trace -/

theorem TraceLegal_of_idle {t : State} (hidle : t.seq = .idle)
    (h : Mon.run t.cfg.cmdBulkWrite Mon.start t.out = some Mon.start) : t.TraceLegal := by
  rw [State.TraceLegal, hidle]
  exact h

theorem State.TraceLegal.busy {s : State} (h : s.TraceLegal) {op : Op} {k : Nat} (hs : s.seq = .busy op k) :
    ∃ m, Mon.run s.cfg.cmdBulkWrite Mon.start s.out = some m ∧
      Mon.Traverses s.cfg.cmdBulkWrite ((expand s op).take k) Mon.start m := by
  rwa [State.TraceLegal, hs] at h

theorem Mon.Traverses.unique {bulk : Byte} {as : List Act} {m m1 m2 : Mon} (h1 : Mon.Traverses bulk as m m1)
    (h2 : Mon.Traverses bulk as m m2) : m1 = m2 := Option.some.inj (h1.symm.trans h2)

/-- The freeing events of an abort may stand outside every bracket. -/
theorem Mon.run_freed (bulk : Byte) (op : Op) (b : Bits) :
    Mon.run bulk Mon.start (if op = .probe then
        (if b.tbufV then [⟨.resFree, true⟩] else []) ++ (if b.linesV then [⟨.resPut, true⟩] else [])
      else []) = some Mon.start := by
  split
  · cases b.tbufV <;> cases b.linesV <;> rfl
  · rfl

/-- One step of the sequencer keeps the trace legal. -/
theorem seqStep_keeps_legal {s t : State} (h : s.Inv) (hlegal : s.TraceLegal) (hstep : seqStep s = .next t) :
    t.TraceLegal := by
  cases hs : s.seq with
  | idle =>
    simp only [seqStep, hs] at hstep
    obtain rfl := Host.Outcome.next.inj hstep
    exact hlegal
  | busy op k =>
    obtain ⟨b, hfl⟩ := h.inFlight hs
    obtain ⟨m, hrun, hm⟩ := hlegal.busy hs
    have hsame := seqStep_same hs hstep
    rcases seqStep_next hs hstep with ⟨hk, rfl⟩ | ⟨a, ha, ⟨-, rfl⟩ | hab | hadv⟩
    · rw [List.take_of_length_le hk] at hm
      obtain rfl := hm.unique hfl.legal
      exact TraceLegal_of_idle rfl (by rw [hsame.cfg, complete_out, hrun])
    · exact hlegal
    · refine TraceLegal_of_idle (performAct_aborted hab).2.1 ?_
      obtain ⟨s1, e, ans, rest, hp, hf, -, rfl⟩ := aborted_cases hab
      obtain ⟨-, m', m2, hm', hnext, htidy, hsel, hheld⟩ := hfl.failed ha hp hf
      obtain rfl := hm.unique hm'
      have hbits : (State.record { s1 with answers := rest } e false).bits = s.bits := (prep_bits hp :)
      have hout : s1.out = s.out := by rw [prep_eq hp]
      have hreleased := Mon.run_release s.cfg.cmdBulkWrite htidy hsel
      rw [hsame.cfg, takeAbort_out_bits, hbits, ← hheld, record_out, Mon.run_append, Mon.run_append, Mon.run_snoc]
      simp only [hout, hrun, hnext, Option.bind_some, hreleased]
      exact Mon.run_freed _ op s.bits
    · obtain ⟨m', m2, hm', hnext, hm2⟩ := hfl.legal.at ha
      obtain rfl := hm.unique hm'
      obtain ⟨-, ⟨s1, e, hp, hout⟩, -, -, hseq⟩ := performAct_advanced hadv
      rw [State.TraceLegal, hseq op k hs]
      refine ⟨m2, ?_, ?_⟩
      · rw [hsame.cfg, hout, Mon.run_snoc, hrun, Option.bind_some, Mon.next_of_prep hp, hnext]
      · rw [hsame.cfg, expand_congr hsame]
        exact hm2

/-! ### A whole operation, and a step -/

theorem seqIter_keeps {P : State → Prop} (hstep : ∀ s t, P s → seqStep s = .next t → P t) (n : Nat) {s t : State}
    (hs : P s) (h : seqIter n s = .next t) : P t := by
  induction n generalizing s with
  | zero =>
    obtain rfl := Host.Outcome.next.inj h
    exact hs
  | succ n ih =>
    rw [seqIter] at h
    split at h
    · exact ih (hstep _ _ hs ‹_›) h
    · cases h
    · cases h

theorem State.Inv.idle {s : State} (h : s.Inv) (hidle : s.seq = .idle) :
    s.bits = Bits.down ∨ s.bits = Bits.up s.cfg.variant := by
  have hseq := h.seqInv
  rwa [State.SeqInv, hidle] at hseq

/-- A state with a device meets R42 (c). -/
theorem State.Inv.up {s : State} (h : s.Inv) (hidle : s.seq = .idle) (hdev : s.devValid = true) :
    s.bits = Bits.up s.cfg.variant := by
  refine (h.idle hidle).resolve_left fun hdown => ?_
  exact absurd (hdev.symm.trans (congrArg Bits.dev hdown)) (by simp [Bits.down])

/-- The gates of R303 let an operation start only from the bits it may start from. -/
theorem startsFrom_of_accepted {s : State} {i : Instr} (h : s.Inv) (hidle : s.seq = .idle) (hrej : s.rejection i = none) :
    (s.opOf i).startsFrom s.cfg.variant s.bits := by
  have hready : s.blitReady = true → s.bits = Bits.up s.cfg.variant := fun hb =>
    h.up hidle ((blitReady_iff s).1 hb).1
  cases i with
  | probe => exact h.down hidle (by simpa [State.rejection] using hrej)
  | remove => exact ⟨h.idle hidle, rfl, rfl⟩
  | cmd c p =>
    refine h.up hidle ?_
    rw [State.rejection] at hrej
    split at hrej <;> try split at hrej
    all_goals simp_all
  | sync fb => exact hready (by simpa [State.rejection] using hrej)
  | syncr fb x1 x2 y1 y2 => exact hready (by simpa [State.rejection] using hrej)
  | fill color x1 x2 y1 y2 =>
    refine ⟨hready ?_, variant_of_fill_accepted hrej⟩
    rw [State.rejection] at hrej
    split at hrej <;> simp_all

/-- An accepted request meets the invariant at event 0. -/
theorem accepted_inv {s : State} {i : Instr} (h : s.Inv) (hidle : s.seq = .idle) (hrej : s.rejection i = none) :
    State.Inv { s.latched i with seq := .busy (s.opOf i) 0 } where
  cfgWf := by simpa using h.cfgWf
  memWf := by simpa using h.memWf
  paramLen := by
    have hlen := h.paramLen
    cases i with
    | cmd c p =>
      have hmax : p.length ≤ s.cfg.paramMax := by
        rw [State.rejection] at hrej
        split at hrej
        · cases hrej
        · omega
      simp [State.latched, hlen]
      omega
    | _ => exact hlen
  plenLe := by
    have hle := h.plenLe
    cases i with
    | cmd c p =>
      rw [State.rejection] at hrej
      split at hrej
      · cases hrej
      · exact Nat.le_of_not_lt ‹_›
    | _ => exact hle
  tbufLen := by
    have htbuf := h.tbufLen
    cases i <;> exact htbuf
  seqInv := by
    refine SeqInv_of_busy (b := s.bits) rfl (Nat.zero_le _) ?_ ?_
    · simpa using startsFrom_of_accepted h hidle hrej
    · exact State.latched_bits s i

/-- An accepted request keeps the trace legal. -/
theorem accepted_legal {s : State} {i : Instr} (h : s.TraceLegal) (hidle : s.seq = .idle) :
    State.TraceLegal { s.latched i with seq := .busy (s.opOf i) 0 } := by
  rw [State.TraceLegal, hidle] at h
  exact ⟨Mon.start, by simpa using h, rfl⟩

theorem inv_with_status {s : State} (h : s.Inv) (k : Status) : State.Inv { s with status := k } :=
  ⟨h.cfgWf, h.memWf, h.paramLen, h.plenLe, h.tbufLen, h.seqInv⟩

theorem inv_with_reqs {s : State} (h : s.Inv) (r : List (List Byte)) : State.Inv { s with reqs := r } :=
  ⟨h.cfgWf, h.memWf, h.paramLen, h.plenLe, h.tbufLen, h.seqInv⟩

/-- What acceptance, rejection and every step of the sequencer keep, a whole operation keeps. -/
theorem exec_keeps {P : State → Prop} {i : Instr} {s t : State} (hreject : ∀ k, P { s with status := k })
    (haccept : s.rejection i = none → P { s.latched i with seq := .busy (s.opOf i) 0 })
    (hstep : ∀ s t, P s → seqStep s = .next t → P t) (h : exec i s = .next t) : P t := by
  rcases exec_rejects_or_launches h with ⟨k, -, rfl⟩ | ⟨hrej, hlaunch⟩
  · exact hreject k
  obtain ⟨n, -, hiter⟩ := runActs_is_seqIter _ { s.latched i with seq := .busy (s.opOf i) 0 } 0 t rfl
    (by rw [List.drop_zero, expand_congr (SameOperands.busy (s.latched i) (s.opOf i) 0)]) hlaunch
  exact seqIter_keeps hstep n (haccept hrej) hiter

theorem exec_keeps_inv {i : Instr} {s t : State} (h : s.Inv) (hexec : exec i s = .next t) : t.Inv :=
  exec_keeps (fun k => inv_with_status h k) (accepted_inv h (exec_next hexec).1)
    (fun _ _ hs hstep => seqStep_keeps_inv hs hstep) hexec

/-- Settles O15: by the three kinds of step. -/
theorem stepKeepsTheInvariant : Obligations.StepKeepsTheInvariant := by
  intro s t h hstep
  rcases step_next hstep with ⟨op, k, -, hseq⟩ | ⟨-, rfl | ⟨d, rest, -, rfl | ⟨i, hexec⟩⟩⟩
  · exact seqStep_keeps_inv h hseq
  · exact h
  · exact inv_with_status (inv_with_reqs h rest) _
  · exact exec_keeps_inv (inv_with_reqs h rest) hexec

/-- Settles O16: by the three kinds of step, the invariant telling where the observer stands. -/
theorem stepKeepsTheTraceLegal : Obligations.StepKeepsTheTraceLegal := by
  intro s t h hlegal hstep
  rcases step_next hstep with ⟨op, k, -, hseq⟩ | ⟨-, rfl | ⟨d, rest, -, rfl | ⟨i, hexec⟩⟩⟩
  · exact seqStep_keeps_legal h hlegal hseq
  · exact hlegal
  · exact hlegal
  · have hinv := inv_with_reqs h rest
    have hidle := (exec_next hexec).1
    exact (exec_keeps (P := fun u => u.Inv ∧ u.TraceLegal) (fun k => ⟨inv_with_status hinv k, hlegal⟩)
      (fun hrej => ⟨accepted_inv hinv hidle hrej, accepted_legal (s := { s with reqs := rest }) hlegal hidle⟩)
      (fun _ _ hu hs => ⟨seqStep_keeps_inv hu.1 hs, seqStep_keeps_legal hu.1 hu.2 hs⟩) hexec).2

/-! ### Idle states and reset -/

/-- Settles O17: R42 read off the two forms of the bits. -/
theorem idleStateMeetsR42 : Obligations.IdleStateMeetsR42 := by
  intro s t h hstep hidle
  have hbits := (stepKeepsTheInvariant s t h hstep).idle hidle
  cases t
  cases hv : Config.variant _ <;> rcases hbits with hb | hb <;> simp_all [State.bits, Bits.down, Bits.up]

/-- Settles O13: reset writes each field of the table. -/
theorem resetLeavesTheTableOfR41 : Obligations.ResetLeavesTheTableOfR41 :=
  fun _ => ⟨rfl, rfl, rfl, rfl, rfl, rfl, rfl, rfl, rfl, rfl, rfl, rfl, rfl⟩

theorem resetWith_inv {cfg : Config} (hwf : cfg.wf = true) : (State.resetWith cfg).Inv where
  cfgWf := hwf
  memWf := reset_mem_wf cfg
  paramLen := List.length_replicate
  plenLe := Nat.zero_le _
  tbufLen := rfl
  seqInv := .inl rfl

/-- Settles O14: nothing is valid, held or sent. -/
theorem resetMeetsTheInvariant : Obligations.ResetMeetsTheInvariant :=
  ⟨fun _ hwf => ⟨resetWith_inv hwf, rfl⟩, resetWith_inv (by decide)⟩

/-! ### A failed PROBE -/

theorem failStatus_cases (a : Answer) (e : Event) :
    e.failStatus a = .resourceUnavailable ∨ e.failStatus a = .unsupported ∨ e.failStatus a = .allocationFailure ∨
      e.failStatus a = .busError := by
  cases e <;> cases a <;> simp [Event.failStatus]

/-- Settles O29: the invariant holds after the abort too, so the bits are the ones before. -/
theorem failedProbeLeavesNoDevice : Obligations.FailedProbeLeavesNoDevice := by
  intro s t h hidle hdev hexec htidle hstatus
  obtain ⟨-, hlaunch⟩ := exec_probe_next hidle hdev hexec
  have haborted : t.devValid = false ∧ ∃ a e, t.status = Event.failStatus a e := by
    rcases launch_next hlaunch with ⟨u, -, rfl⟩ | ⟨pre, a, post, u, -, -, hseq, -, ⟨-, rfl⟩ | hab⟩
    · exact absurd (complete_status _ _) hstatus
    · simp [hseq] at htidle
    · obtain ⟨s1, e, ans, rest, -, -, -, rfl⟩ := aborted_cases hab
      exact ⟨by simp [takeAbort_probe, destroyRecord_eq], ans, e, rfl⟩
  obtain ⟨htdev, a, e, hfail⟩ := haborted
  have htinv := exec_keeps_inv h hexec
  have hsbits := h.down hidle hdev
  have htbits := htinv.down htidle htdev
  obtain ⟨hframe, -⟩ := lifecycleFrame.1 s t hexec
  refine ⟨?_, fun hsoft hsleep hdisplay => ?_, ?_⟩
  · have hstbuf : s.tbuf = [] := List.eq_nil_of_length_eq_zero (by
      rw [h.tbufLen, show s.tbufValid = false from congrArg Bits.tbufV hsbits]; rfl)
    have httbuf : t.tbuf = [] := List.eq_nil_of_length_eq_zero (by
      rw [htinv.tbufLen, show t.tbufValid = false from congrArg Bits.tbufV htbits]; rfl)
    rw [Bits.down] at hsbits htbits
    obtain ⟨hs1, -, hs3, hs4, hs5, hs6, hs7⟩ := Bits.mk.inj hsbits
    obtain ⟨ht1, -, ht3, ht4, ht5, ht6, ht7⟩ := Bits.mk.inj htbits
    refine hframe.trans ?_
    rw [ht1.trans hs1.symm, ht3.trans hs3.symm, ht4.trans hs4.symm, ht5.trans hs5.symm, ht6.trans hs6.symm,
      ht7.trans hs7.symm, httbuf.trans hstbuf.symm, htidle.trans hidle.symm]
  · refine launch_keeps_remain (op := .probe) ?_ hlaunch
    refine probeActs_forall (P := Act.IsPlain) (fun _ => trivial) (fun _ _ => trivial) s.cfg fun x hx => ?_
    refine sendCommand_isPlain (.inr ?_) x.2
    have htable := (initTable_of_wf h.cfgWf).2
    simp only [Expect.initCommands, List.cons_append, List.mem_cons, List.mem_append, List.mem_map, List.not_mem_nil,
      or_false] at hx
    rcases hx with rfl | ⟨y, hy, rfl⟩ | rfl | rfl
    · exact hsoft
    · exact (htable y hy).2
    · exact hsleep
    · exact hdisplay
  · rw [hfail]
    exact failStatus_cases a e

end Sys2Proof.Machine

/-! PROOFS. The state machine of 44_panel_initializer.md R211: the transitions of PROBE come in the documented order. -/

namespace Sys2Proof.Machine

open Sys2Proof

/-! ### The order of the transitions -/

/-- The initializer's state after an entry. -/
def Act.initAfter (a : Act) (st : InitState) : InitState :=
  match a with
  | .emitInit _ st' => st'
  | _ => st

/-- The initializer's state after a list of entries. -/
def initAfterAll (as : List Act) (st : InitState) : InitState := as.foldl (fun st a => a.initAfter st) st

/-- Every transition that the entries close, from `st` on, goes to the next of the six states. -/
def InOrder : InitState → List Act → Prop
  | _, [] => True
  | st, a :: as =>
    (a.initAfter st = st ∨ (a.initAfter st).code.toNat = st.code.toNat + 1) ∧ InOrder (a.initAfter st) as

theorem inOrder_append {st : InitState} {as bs : List Act} (ha : InOrder st as) (hb : InOrder (initAfterAll as st) bs) :
    InOrder st (as ++ bs) := by
  induction as generalizing st with
  | nil => exact hb
  | cons a as ih => exact ⟨ha.1, ih ha.2 hb⟩

theorem inOrder_at {st : InitState} {as : List Act} (h : InOrder st as) {k : Nat} {a : Act} (ha : as[k]? = some a) :
    let now := initAfterAll (as.take k) st
    a.initAfter now = now ∨ (a.initAfter now).code.toNat = now.code.toNat + 1 := by
  induction as generalizing st k with
  | nil => simp at ha
  | cons x xs ih =>
    cases k with
    | zero =>
      obtain rfl : x = a := by simpa using ha
      exact h.1
    | succ k => exact ih h.2 (by simpa using ha)

/-- The entry closes no transition. -/
def Act.StaysPut (a : Act) : Prop := ∀ st, a.initAfter st = st

theorem initAfterAll_staysPut {as : List Act} (h : ∀ a ∈ as, a.StaysPut) (st : InitState) : initAfterAll as st = st := by
  induction as with
  | nil => rfl
  | cons a as ih =>
    rw [initAfterAll, List.foldl_cons, h a (by simp)]
    exact ih fun b hb => h b (by simp [hb])

theorem inOrder_staysPut {as : List Act} (h : ∀ a ∈ as, a.StaysPut) (st : InitState) : InOrder st as := by
  induction as generalizing st with
  | nil => trivial
  | cons a as ih => exact ⟨.inl (h a (by simp) st), ih (fun b hb => h b (by simp [hb])) _⟩

/-- A transition of the initializer: entries that close none, then one that closes the next. -/
def IsTransition (as : List Act) (st : InitState) : Prop :=
  ∃ pre e, as = pre ++ [.emitInit e st] ∧ ∀ a ∈ pre, a.StaysPut

theorem IsTransition.inOrder {as : List Act} {st st' : InitState} (h : IsTransition as st')
    (hnext : st'.code.toNat = st.code.toNat + 1) : InOrder st as ∧ initAfterAll as st = st' := by
  obtain ⟨pre, e, rfl, hpre⟩ := h
  refine ⟨inOrder_append (inOrder_staysPut hpre st) ?_, ?_⟩
  · rw [initAfterAll_staysPut hpre]
    exact ⟨.inr hnext, trivial⟩
  · rw [initAfterAll, List.foldl_append]
    rfl

/-- Entries that close no transition may go before. -/
theorem IsTransition.prepend {as bs : List Act} {st : InitState} (h : IsTransition bs st) (ha : ∀ a ∈ as, a.StaysPut) :
    IsTransition (as ++ bs) st := by
  obtain ⟨pre, e, rfl, hpre⟩ := h
  refine ⟨as ++ pre, e, (List.append_assoc _ _ _).symm, fun a hmem => ?_⟩
  rcases List.mem_append.1 hmem with hmem | hmem
  · exact ha a hmem
  · exact hpre a hmem

theorem isTransition_closed {as : List Act} (h : ∀ a ∈ as, a.StaysPut) (e : Event) (st : InitState) :
    IsTransition (as ++ [.emitInit e st]) st := ⟨as, e, rfl, h⟩

theorem sendCommand_staysPut (cfg : Config) (c : Byte) (p : List Byte) : ∀ a ∈ sendCommand cfg c p, a.StaysPut :=
  sendCommand_forall (fun _ _ => rfl) (fun _ _ _ => rfl) (fun _ _ => rfl) cfg c p

theorem configureActs_isTransition {cfg : Config} (hwf : cfg.wf = true) :
    IsTransition (configureActs cfg) .configuringDisplay := by
  obtain ⟨es, e, -, hacts⟩ := configureActs_eq hwf
  rw [hacts]
  refine isTransition_closed (fun a ha => ?_) e _
  obtain ⟨x, -, rfl⟩ := List.mem_map.1 ha
  exact fun _ => rfl

/-- PROBE's five transitions (R210). -/
theorem probeActs_transitions {cfg : Config} (hwf : cfg.wf = true) :
    ∃ a1 a2 a3 a4 a5, probeActs cfg = a1 ++ a2 ++ a3 ++ a4 ++ a5 ∧ IsTransition a1 .hardReset ∧
      IsTransition a2 .softReset ∧ IsTransition a3 .configuringDisplay ∧ IsTransition a4 .sleepExit ∧
      IsTransition a5 .displayOn := by
  have hemit : ∀ e, (Act.emit e).StaysPut := fun _ _ => rfl
  have hhard : IsTransition hardResetActs .hardReset :=
    isTransition_closed (as := [.emit (.rst .asserted), .emit (.delay 10), .emit (.rst .released)])
      (by simp [hemit]) _ _
  have hsoft : IsTransition (softResetActs cfg) .softReset :=
    isTransition_closed (sendCommand_staysPut cfg _ _) _ _
  have hsleep : IsTransition (sleepExitActs cfg) .sleepExit :=
    isTransition_closed (sendCommand_staysPut cfg _ _) _ _
  have hdisplay := sendCommand_staysPut cfg cfg.cmdDisplayOn []
  have hlast : IsTransition [.emit (.delay 50), .emitInit .blOn .displayOn] .displayOn :=
    isTransition_closed (as := [.emit (.delay 50)]) (by simp [hemit]) _ _
  cases hv : cfg.variant with
  | rm =>
    refine ⟨[.emit .resGet] ++ hardResetActs, softResetActs cfg, configureActs cfg, sleepExitActs cfg,
      sendCommand cfg cfg.cmdDisplayOn [] ++ [.emit (.delay 50), .emitInit .blOn .displayOn], ?_,
      hhard.prepend (by simp [hemit]), hsoft, configureActs_isTransition hwf, hsleep, hlast.prepend hdisplay⟩
    simp [probeActs, initActs, claimed, busPhaseActs, hv]
  | ser =>
    refine ⟨[.emit .resGet, .emit .resAlloc] ++ hardResetActs, [.emit .serClaim] ++ softResetActs cfg,
      configureActs cfg, sleepExitActs cfg, sendCommand cfg cfg.cmdDisplayOn [] ++ ([.emit .serRelease] ++
      [.emit (.delay 50), .emitInit .blOn .displayOn]), ?_, hhard.prepend (by simp [hemit]),
      hsoft.prepend (by simp [hemit]), configureActs_isTransition hwf, hsleep,
      (hlast.prepend (by simp [hemit])).prepend hdisplay⟩
    simp [probeActs, initActs, claimed, busPhaseActs, hv]

theorem probeActs_inOrder {cfg : Config} (hwf : cfg.wf = true) : InOrder .unreset (probeActs cfg) := by
  obtain ⟨a1, a2, a3, a4, a5, hacts, h1, h2, h3, h4, h5⟩ := probeActs_transitions hwf
  obtain ⟨o1, e1⟩ := h1.inOrder (st := .unreset) rfl
  obtain ⟨o2, e2⟩ := h2.inOrder (st := .hardReset) rfl
  obtain ⟨o3, e3⟩ := h3.inOrder (st := .softReset) rfl
  obtain ⟨o4, e4⟩ := h4.inOrder (st := .configuringDisplay) rfl
  obtain ⟨o5, -⟩ := h5.inOrder (st := .sleepExit) rfl
  have happ : ∀ (as bs : List Act) st, initAfterAll (as ++ bs) st = initAfterAll bs (initAfterAll as st) :=
    fun _ _ _ => List.foldl_append
  rw [hacts]
  refine inOrder_append (inOrder_append (inOrder_append (inOrder_append o1 ?_) ?_) ?_) ?_ <;>
    simp only [happ, e1, e2, e3, e4] <;> assumption

theorem bitsAfter_init (v : Variant) (as : List Act) (b : Bits) :
    (bitsAfter v as b).init = initAfterAll as b.init := by
  induction as generalizing b with
  | nil => rfl
  | cons a as ih =>
    have hinit : (a.onBits v b).init = a.initAfter b.init := by
      cases a with
      | emitInit e st => rfl
      | emit e => cases e <;> rfl
      | emitRemain e m => cases e <;> rfl
      | word w => rfl
      | wordHost j => rfl
      | chunk i k => rfl
    rw [bitsAfter, List.foldl_cons, initAfterAll, List.foldl_cons, ← hinit]
    exact ih _

/-- An entry of the transport closes no transition. -/
theorem Act.OnPort.staysPut {v : Variant} {a : Act} (h : a.OnPort v) : a.StaysPut := by
  cases a with
  | emitInit e st => exact h.elim
  | _ => exact fun _ => rfl

/-- What one step of the sequencer can do to the initializer's state. -/
theorem advanced_initState {op : Op} {a : Act} {s t : State} (h : performAct op a s = .advanced t) :
    t.initState = a.initAfter s.initState := by
  have hbits : t.bits = (a.effect s).bits := by
    rw [performAct_advanced_effect h]
    rfl
  have hinit := congrArg Bits.init hbits
  rw [effect_bits] at hinit
  exact hinit.trans (bitsAfter_init s.cfg.variant [a] s.bits)

/-- Settles O18: an entry stays put or closes PROBE's next transition; only the end of a REMOVE and the abort of a PROBE
return to Unreset. -/
theorem initStateAdvancesLinearly : Obligations.InitStateAdvancesLinearly := by
  intro s t op k h hs hstep
  rw [step_busy hs] at hstep
  obtain ⟨b, hfl⟩ := h.inFlight hs
  rcases seqStep_next hs hstep with ⟨-, rfl⟩ | ⟨a, ha, ⟨-, rfl⟩ | hab | hadv⟩
  · cases op with
    | remove free put => exact .inr (.inr ⟨rfl, rfl, .inr ⟨free, put, rfl⟩⟩)
    | _ => exact .inl rfl
  · exact .inl rfl
  · obtain ⟨-, hidle, hstatus, -⟩ := performAct_aborted hab
    obtain ⟨s1, e, ans, rest, hp, -, -, rfl⟩ := aborted_cases hab
    by_cases hop : op = .probe
    · subst hop
      exact .inr (.inr ⟨by simp [takeAbort_probe, destroyRecord_eq], hidle, .inl ⟨rfl, hstatus⟩⟩)
    · left
      rw [takeAbort_eq hop, releaseIfHeld_eq, prep_eq hp]
      rfl
  · rw [advanced_initState hadv]
    rcases op.cases_transport with rfl | ⟨free, put, rfl⟩ | hop
    · obtain rfl : b = Bits.down := hfl.starts
      have hnow : s.initState = initAfterAll ((expand s .probe).take k) .unreset :=
        (congrArg Bits.init hfl.bits).trans (bitsAfter_init _ _ _)
      have horder := inOrder_at (probeActs_inOrder h.cfgWf) ha
      rw [hnow]
      exact horder.imp_right fun hnext => .inl ⟨rfl, hnext⟩
    · have hemit : a = .emit .resFree ∨ a = .emit .resPut := by
        have hmem := List.mem_of_getElem? ha
        revert hmem
        cases free <;> cases put <;> simp +contextual [expand, removeActs]
      have hstay : a.StaysPut := by
        rcases hemit with rfl | rfl <;> exact fun _ => rfl
      exact .inl (hstay _)
    · exact .inl ((expand_onPort hop hfl.fill a (List.mem_of_getElem? ha)).staysPut _)

end Sys2Proof.Machine

/-! PROOFS. 45_blit_sync.md R241: SYNC and SYNCR of the full extent differ in the operation's name alone. -/

namespace Sys2Proof.Machine

open Sys2Proof

/-- The two outcomes end in the same idle states and stop on the same refusals. -/
def SameEnd (o o' : Host.Outcome State Fault Refusal) : Prop :=
  (∀ t, t.seq = .idle → (o = .next t ↔ o' = .next t)) ∧ ∀ r, o = .refused r ↔ o' = .refused r

theorem SameEnd.refl (o : Host.Outcome State Fault Refusal) : SameEnd o o := ⟨fun _ _ => .rfl, fun _ => .rfl⟩

theorem SameEnd.ite {p : Prop} [Decidable p] {o₁ o₂ o₁' o₂' : Host.Outcome State Fault Refusal} (h₁ : SameEnd o₁ o₁')
    (h₂ : SameEnd o₂ o₂') : SameEnd (if p then o₁ else o₂) (if p then o₁' else o₂') := by
  split
  · exact h₁
  · exact h₂

/-- Two states in which an operation waits are no ends. -/
theorem sameEnd_of_waiting {s s' : State} (h : s.seq ≠ .idle) (h' : s'.seq ≠ .idle) :
    SameEnd (.next s) (.next s') := by
  refine ⟨fun t ht => ⟨fun heq => ?_, fun heq => ?_⟩, fun r => ⟨nofun, nofun⟩⟩
  · cases heq
    exact absurd ht h
  · cases heq
    exact absurd ht h'

/-- The state at an event of an operation. -/
def State.at (s : State) (op : Op) (k : Nat) : State := { s with seq := .busy op k }

theorem State.at_eq_logged (s : State) (op : Op) (k : Nat) : s.at op k = s.logged s.out s.answers (.busy op k) := rfl

/-- Completing an entry at an event of an operation goes to the next event of the same operation. -/
theorem advance_at (a : Act) (e : Event) (s : State) (op : Op) (k : Nat) :
    (a.post (State.perform (s.at op k) e)).advance = (a.post (s.perform e)).at op (k + 1) := by
  have hpost : ∀ u : State, (a.post (u.at op k)).advance = (a.post u).at op (k + 1) := by
    intro u
    cases a <;> rfl
  have hperform : State.perform (s.at op k) e = (s.perform e).at op k := by
    have hinput : (s.at op k).record e true = (s.record e true).logged (s.record e true).out s.answers (.busy op k) := rfl
    have hkept : (s.perform e).at op k = (s.perform e).logged (s.record e true).out s.answers (.busy op k) := by
      rw [State.at_eq_logged]
      simp [State.perform]
    rw [hkept, State.perform, hinput, apply_logged]
    rfl
  rw [hperform, hpost]

theorem prep_at {a : Act} {s s1 : State} {e : Event} (hp : a.prep s = some (s1, e)) (op : Op) (k : Nat) :
    a.prep (s.at op k) = some (s1.at op k, e) := by
  have hs1 := prep_eq hp
  rw [State.at_eq_logged, prep_logged, hp, hs1]
  rfl

theorem prep_at_none {a : Act} {s : State} (hp : a.prep s = none) (op : Op) (k : Nat) : a.prep (s.at op k) = none := by
  rw [State.at_eq_logged, prep_logged, hp]
  rfl

/-- One entry under the names of the two blits: both wait, both stop on the same refusal or in the same abort, or both
go on alike. -/
theorem performAct_renamed {op op' : Op} (hop : op.IsBlitOp) (hop' : op'.IsBlitOp) (a : Act) (s : State) (k : Nat) :
    (performAct op a (s.at op k) = .waiting ∧ performAct op' a (s.at op' k) = .waiting) ∨
    (∃ r, performAct op a (s.at op k) = .refused r ∧ performAct op' a (s.at op' k) = .refused r) ∨
    (∃ t, performAct op a (s.at op k) = .aborted t ∧ performAct op' a (s.at op' k) = .aborted t) ∨
    ∃ u : State, performAct op a (s.at op k) = .advanced (u.at op (k + 1)) ∧
      performAct op' a (s.at op' k) = .advanced (u.at op' (k + 1)) := by
  cases hp : a.prep s with
  | none => exact .inr (.inl ⟨.sourceUnreadable, by simp [performAct, prep_at_none hp], by simp [performAct, prep_at_none hp]⟩)
  | some se =>
    obtain ⟨s1, e⟩ := se
    have hprep := prep_at hp
    have hcfg : s1.cfg = s.cfg := by rw [prep_eq hp]
    have hanswers : s1.answers = s.answers := by rw [prep_eq hp]
    cases hf : e.fallible s.cfg.variant with
    | false =>
      have done (o : Op) : performAct o a (s.at o k) = .advanced ((a.post (s1.perform e)).at o (k + 1)) := by
        have hemit := emit_infallible (e := e) (s := s1.at o k) (by rwa [show (s1.at o k).cfg = s.cfg from hcfg])
        simp [performAct, hprep, hemit, advance_at]
      exact .inr (.inr (.inr ⟨_, done op, done op'⟩))
    | true =>
      cases hans : s.answers with
      | nil => exact .inl ⟨performAct_waiting (hprep _ _) hf hans, performAct_waiting (hprep _ _) hf hans⟩
      | cons x rest =>
        by_cases hx : x = .ok
        · subst hx
          have done (o : Op) : performAct o a (s.at o k) =
              .advanced ((a.post (State.perform { s1 with answers := rest } e)).at o (k + 1)) := by
            have hemit := emit_ok (e := e) (s := s1.at o k) (rest := rest)
              (by rwa [show (s1.at o k).cfg = s.cfg from hcfg]) (hanswers.trans hans)
            have hinput : { s1.at o k with answers := rest } = State.at { s1 with answers := rest } o k := rfl
            simp [performAct, hprep, hemit, hinput, advance_at]
          exact .inr (.inr (.inr ⟨_, done op, done op'⟩))
        · have hsame : ∀ u : State, takeAbort op (e.failStatus x) ((u.at op k).record e false) =
              takeAbort op' (e.failStatus x) ((u.at op' k).record e false) := by
            intro u
            rw [takeAbort_eq (Op.IsTransport.ne_probe (.inr (.inl hop))),
              takeAbort_eq (Op.IsTransport.ne_probe (.inr (.inl hop'))), releaseIfHeld_eq, releaseIfHeld_eq]
            rfl
          refine .inr (.inr (.inl ⟨_, performAct_fail (hprep _ _) hf hans hx, ?_⟩))
          rw [performAct_fail (hprep _ _) hf hans hx]
          exact congrArg _ (hsame { s1 with answers := rest }).symm

theorem runActs_renamed {op op' : Op} (hop : op.IsBlitOp) (hop' : op'.IsBlitOp) (as : List Act) (s : State) (k : Nat) :
    SameEnd (runActs op as (s.at op k)) (runActs op' as (s.at op' k)) := by
  induction as generalizing s k with
  | nil =>
    rw [runActs, runActs, hop.complete_eq, hop'.complete_eq]
    exact .refl _
  | cons a as ih =>
    rcases performAct_renamed hop hop' a s k with ⟨h, h'⟩ | ⟨r, h, h'⟩ | ⟨t, h, h'⟩ | ⟨u, h, h'⟩ <;>
      simp only [runActs, h, h']
    · exact sameEnd_of_waiting nofun nofun
    · exact .refl _
    · exact .refl _
    · exact ih u (k + 1)

theorem startBlit_renamed (s : State) : SameEnd (startBlit .sync s) (startBlit .syncr s) := by
  have hlaunch : SameEnd (launch .sync s) (launch .syncr s) := runActs_renamed (.inl rfl) (.inr rfl) _ s 0
  exact .ite (.refl _) (.ite (.refl _) (.ite (.refl _) (.ite (.refl _) hlaunch)))

/-- Settles O41: the latches are loaded alike, and only `SEQ` shows which of the two runs. -/
theorem syncIsSyncrOfTheFullExtent : Obligations.SyncIsSyncrOfTheFullExtent := by
  intro s fb hidle
  simp only [exec, execSync, execSyncr, whenIdle_idle hidle]
  exact SameEnd.ite (.refl _) (startBlit_renamed _)

end Sys2Proof.Machine

/-! PROOFS. 45_blit_sync.md R250: two runs of one operation, in lockstep. -/

namespace Sys2Proof.Machine

open Sys2Proof

/-! ### Two states in lockstep -/

/-- Two runs, begun with the traces `o` and `o'`, stand at the same place: the same configuration, memory, answers, hold
of the bus and position, the same source where it is `used`, and the same entries appended. -/
structure Lockstep (o o' : List Entry) (used : Prop) (s s' : State) : Prop where
  cfg : s.cfg = s'.cfg
  mem : s.mem = s'.mem
  source : used → s.fbptr = s'.fbptr
  answers : s.answers = s'.answers
  held : s.busHeld = s'.busHeld
  seq : s.seq = s'.seq
  status : s.seq = .idle → s.status = s'.status
  log : ∃ ext, s.out = o ++ ext ∧ s'.out = o' ++ ext

/-- The entry reads the source buffer at `FBPTR`. -/
def Act.ReadsSource : Act → Prop
  | .wordHost _ | .chunk _ _ => True
  | .emit _ | .emitInit _ _ | .emitRemain _ _ | .word _ => False

section
variable {o o' : List Entry} {used : Prop} {s s' : State}

theorem pixelWords_agree (hcfg : s.cfg = s'.cfg) (hmem : s.mem = s'.mem) (hfb : s.fbptr = s'.fbptr) (i k : Nat) :
    pixelWords s i k = pixelWords s' i k := by
  induction k generalizing i with
  | zero => rfl
  | succ k ih => simp [pixelWords, ih, memHalf_congr hcfg hmem, hfb, hcfg]

theorem Lockstep.withTbuf (h : Lockstep o o' used s s') (ws ws' : List Half) :
    Lockstep o o' used { s with tbuf := ws } { s' with tbuf := ws' } :=
  ⟨h.cfg, h.mem, h.source, h.answers, h.held, h.seq, h.status, h.log⟩

/-- The TransferBuffer beyond the chunk is not sent. -/
theorem chunkBytes_append {le : Bool} {ws : List Half} {k : Nat} (h : ws.length = k) (r r' : List Half) :
    chunkBytes le (ws ++ r) k = chunkBytes le (ws ++ r') k := by
  simp [chunkBytes, ← h]

/-- The same entry has the same event before it. -/
theorem Lockstep.prep (h : Lockstep o o' used s s') {a : Act} (ha : a.ReadsSource → used) {s1 : State} {e : Event}
    (hp : a.prep s = some (s1, e)) : ∃ s1', a.prep s' = some (s1', e) ∧ Lockstep o o' used s1 s1' := by
  cases a with
  | wordHost j =>
    obtain ⟨w, hw, hwe⟩ := Option.map_eq_some_iff.1 hp
    cases hwe
    rw [memWord_congr h.cfg h.mem, h.source (ha trivial)] at hw
    exact ⟨s', by simp [Act.prep, hw], h⟩
  | chunk i k =>
    obtain ⟨u, hu, hue⟩ := Option.map_eq_some_iff.1 hp
    cases hue
    obtain ⟨ws, hws, rfl⟩ := Option.map_eq_some_iff.1 hu
    have hbytes := chunkBytes_append (le := s.cfg.hostLE) (pixelWords_length hws) (s'.tbuf.drop k) (s.tbuf.drop k)
    rw [pixelWords_agree h.cfg h.mem (h.source (ha trivial))] at hws
    exact ⟨{ s' with tbuf := ws ++ s'.tbuf.drop k }, by simp [Act.prep, fillTbuf, hws, ← h.cfg, hbytes], h.withTbuf _ _⟩
  | _ =>
    cases hp
    exact ⟨s', rfl, h⟩

theorem apply_busHeld_agree (e : Event) (h : s.busHeld = s'.busHeld) : (e.apply s).busHeld = (e.apply s').busHeld := by
  cases e with
  | resGet =>
    simp only [Event.apply]
    split <;> split <;> exact h
  | serClaim => rfl
  | serRelease => rfl
  | _ => exact h

theorem Lockstep.record (h : Lockstep o o' used s s') (e : Event) (ok : Bool) :
    Lockstep o o' used (s.record e ok) (s'.record e ok) := by
  obtain ⟨ext, hs, hs'⟩ := h.log
  exact ⟨h.cfg, h.mem, h.source, h.answers, h.held, h.seq, h.status, ext ++ [⟨e, ok⟩], by simp [State.record, hs],
    by simp [State.record, hs']⟩

theorem Lockstep.perform (h : Lockstep o o' used s s') (e : Event) :
    Lockstep o o' used (s.perform e) (s'.perform e) := by
  obtain ⟨ext, hs, hs'⟩ := h.log
  exact
    { cfg := by simpa using h.cfg
      mem := by simpa using h.mem
      source := by simpa using h.source
      answers := by simpa using h.answers
      held := apply_busHeld_agree e h.held
      seq := by simpa using h.seq
      status := by simpa using h.status
      log := ⟨ext ++ [⟨e, true⟩], by simp [hs], by simp [hs']⟩ }

theorem Lockstep.post (h : Lockstep o o' used s s') (a : Act) : Lockstep o o' used (a.post s) (a.post s') := by
  cases a <;> exact ⟨h.cfg, h.mem, h.source, h.answers, h.held, h.seq, h.status, h.log⟩

theorem Lockstep.advance (h : Lockstep o o' used s s') : Lockstep o o' used s.advance s'.advance := by
  cases hs : s.seq with
  | idle =>
    rw [State.advance, State.advance, ← h.seq, hs]
    exact h
  | busy op k =>
    rw [advance_eq _ _ _ hs, advance_eq _ _ _ (h.seq ▸ hs)]
    exact ⟨h.cfg, h.mem, h.source, h.answers, h.held, rfl, nofun, h.log⟩

theorem Lockstep.answered (h : Lockstep o o' used s s') (rest : List Answer) :
    Lockstep o o' used { s with answers := rest } { s' with answers := rest } :=
  ⟨h.cfg, h.mem, h.source, rfl, h.held, h.seq, h.status, h.log⟩

/-- Both operations end with the same status. -/
theorem Lockstep.ended (h : Lockstep o o' used s s') (k : Status) :
    Lockstep o o' used { s with status := k, seq := .idle } { s' with status := k, seq := .idle } :=
  ⟨h.cfg, h.mem, h.source, h.answers, h.held, rfl, fun _ => rfl, h.log⟩

theorem Lockstep.released (h : Lockstep o o' used s s') : Lockstep o o' used s.releaseIfHeld s'.releaseIfHeld := by
  rw [State.releaseIfHeld, State.releaseIfHeld, ← h.held]
  split
  · exact h.perform _
  · exact h

/-! ### The runs -/

/-- One entry: both wait, both are refused, or both abort or go on, in lockstep. -/
theorem Lockstep.performAct (h : Lockstep o o' used s s') {op : Op} (hop : op ≠ .probe) {a : Act}
    (ha : a.ReadsSource → used) :
    (performAct op a s = .refused .sourceUnreadable) ∨
    (performAct op a s = .waiting ∧ performAct op a s' = .waiting) ∨
    ∃ t t', Lockstep o o' used t t' ∧
      (performAct op a s = .aborted t ∧ performAct op a s' = .aborted t' ∨
        performAct op a s = .advanced t ∧ performAct op a s' = .advanced t') := by
  rcases performAct_cases op a s with ⟨-, hres⟩ | ⟨s1, e, hp, hcases⟩
  · exact .inl hres
  obtain ⟨s1', hp', h1⟩ := h.prep ha hp
  have hcfg' : s1'.cfg = s'.cfg := by rw [prep_eq hp']
  have hanswers' : s1'.answers = s'.answers := by rw [prep_eq hp']
  rw [h.cfg, h.answers] at hcases
  rcases hcases with ⟨hf, hans, hres⟩ | ⟨hf, x, rest, hans, hne, hres⟩ | ⟨hf, hres⟩ | ⟨hf, rest, hans, hres⟩
  · exact .inr (.inl ⟨hres, performAct_waiting hp' hf hans⟩)
  · refine .inr (.inr ⟨_, _, ?_, .inl ⟨hres, performAct_fail hp' hf hans hne⟩⟩)
    rw [takeAbort_eq hop, takeAbort_eq hop]
    exact ((h1.answered rest).record e false).released.ended _
  · refine .inr (.inr ⟨_, _, ((h1.perform e).post a).advance, .inr ⟨hres, ?_⟩⟩)
    simp [Machine.performAct, hp', emit_infallible (hcfg' ▸ hf)]
  · refine .inr (.inr ⟨_, _, (((h1.answered rest).perform e).post a).advance, .inr ⟨hres, ?_⟩⟩)
    simp [Machine.performAct, hp', emit_ok (hcfg' ▸ hf) (hanswers'.trans hans)]

theorem Lockstep.runActs (h : Lockstep o o' used s s') {op : Op} (hop : op.IsTransport) {as : List Act}
    (has : ∀ a ∈ as, a.ReadsSource → used) {t t' : State} (hrun : runActs op as s = .next t)
    (hrun' : runActs op as s' = .next t') : Lockstep o o' used t t' := by
  induction as generalizing s s' with
  | nil =>
    cases hrun
    cases hrun'
    rw [hop.complete_eq, hop.complete_eq]
    exact h.ended _
  | cons a as ih =>
    rcases h.performAct hop.ne_probe (has a (by simp)) with
      hres | ⟨hres, hres'⟩ | ⟨u, u', hu, ⟨hres, hres'⟩ | ⟨hres, hres'⟩⟩
    · simp [Machine.runActs, hres] at hrun
    · simp only [Machine.runActs, hres, hres'] at hrun hrun'
      cases hrun
      cases hrun'
      exact h
    · simp only [Machine.runActs, hres, hres'] at hrun hrun'
      cases hrun
      cases hrun'
      exact hu
    · simp only [Machine.runActs, hres, hres'] at hrun hrun'
      exact ih hu (fun b hb => has b (by simp [hb])) hrun hrun'

end

/-! ### The source buffer is read by the blits alone -/

theorem sendCommand_readsNoSource (cfg : Config) (c : Byte) (p : List Byte) :
    ∀ a ∈ sendCommand cfg c p, ¬ a.ReadsSource :=
  sendCommand_forall (fun _ => id) (fun _ _ => id) (fun _ => id) cfg c p

theorem fillActs_readsNoSource (cfg : Config) (c : Clip) (color : Half) :
    ∀ a ∈ fillActs cfg c color, ¬ a.ReadsSource := by
  intro a ha
  simp only [fillActs, setWindow, rmBulkFill, rmBulk, List.mem_append, List.mem_cons, List.mem_replicate,
    List.not_mem_nil, or_false] at ha
  rcases ha with (ha | ha) | ((rfl | rfl) | ⟨-, rfl⟩) | rfl
  · exact sendCommand_readsNoSource _ _ _ a ha
  · exact sendCommand_readsNoSource _ _ _ a ha
  all_goals exact id

theorem expand_readsSource {s : State} {op : Op} (hop : op.IsTransport) :
    ∀ a ∈ expand s op, a.ReadsSource → op.IsBlitOp := by
  intro a ha hreads
  rcases hop with rfl | hblit | rfl
  · exact absurd hreads (claimed_forall (fun _ => id) (sendCommand_readsNoSource _ _ _) a ha)
  · exact hblit
  · exact absurd hreads (fillActs_readsNoSource _ _ _ a ha)

/-! ### Acceptance -/

section
variable {s s' : State} {i : Instr}

theorem opOf_isTransport (hprobe : i ≠ .probe) (hremove : i ≠ .remove) : (s.opOf i).IsTransport := by
  cases i with
  | probe => exact absurd rfl hprobe
  | remove => exact absurd rfl hremove
  | cmd c p => exact .inl rfl
  | sync fb => exact .inr (.inl (.inl rfl))
  | syncr fb x1 x2 y1 y2 => exact .inr (.inl (.inr rfl))
  | fill color x1 x2 y1 y2 => exact .inr (.inr rfl)

theorem opOf_agree (hremove : i ≠ .remove) : s.opOf i = s'.opOf i := by
  cases i with
  | remove => exact absurd rfl hremove
  | _ => rfl

/-- The checks of R303 read the configuration, `DEV_VALID` and `INIT_STATE` alone. -/
theorem rejection_agree (hcfg : s.cfg = s'.cfg) (hdev : s.devValid = s'.devValid)
    (hinit : s.initState = s'.initState) : s.rejection i = s'.rejection i := by
  cases i <;> simp [State.rejection, State.blitReady, hcfg, hdev, hinit]

/-- The expansion is a function of the configuration and the descriptor. -/
theorem expand_latched_agree (hprobe : i ≠ .probe) (hremove : i ≠ .remove) (hcfg : s.cfg = s'.cfg) :
    expand (s.latched i) (s.opOf i) = expand (s'.latched i) (s'.opOf i) := by
  cases i with
  | probe => exact absurd rfl hprobe
  | remove => exact absurd rfl hremove
  | cmd c p =>
    rw [State.opOf, State.opOf, expand_latched_cmd, expand_latched_cmd, hcfg]
  | sync fb => simp [expand, State.opOf, State.latched, hcfg]
  | syncr fb x1 x2 y1 y2 => simp [expand, State.opOf, State.latched, hcfg]
  | fill color x1 x2 y1 y2 => simp [expand, State.opOf, State.latched, hcfg]

theorem fbptr_latched_agree (hblit : (s.opOf i).IsBlitOp) : (s.latched i).fbptr = (s'.latched i).fbptr := by
  cases i with
  | sync fb => rfl
  | syncr fb x1 x2 y1 y2 => rfl
  | _ => rcases hblit with h | h <;> cases h

/-- Two runs of one request start in lockstep. -/
theorem lockstep_accepted (hcfg : s.cfg = s'.cfg) (hmem : s.mem = s'.mem)
    (hans : s.answers = s'.answers) (hheld : s.busHeld = s'.busHeld) :
    Lockstep s.out s'.out (s.opOf i).IsBlitOp { s.latched i with seq := .busy (s.opOf i) 0 }
      { s'.latched i with seq := .busy (s.opOf i) 0 } where
  cfg := by simpa using hcfg
  mem := by simpa using hmem
  source := fbptr_latched_agree
  answers := by simpa using hans
  held := by cases i <;> exact hheld
  seq := rfl
  status := nofun
  log := ⟨[], by simp, by simp⟩

end

/-- Settles O42: both requests are rejected alike, or run in lockstep. -/
theorem emissionIgnoresStaleState : Obligations.EmissionIgnoresStaleState := by
  intro i s s' t t' hprobe hremove hcfg hmem hans hdev hinit hfree hfree' hexec hexec'
  obtain ⟨hidle, -⟩ := exec_next hexec
  obtain ⟨hidle', -⟩ := exec_next hexec'
  have hrej := rejection_agree (i := i) hcfg hdev hinit
  rcases exec_rejects_or_launches hexec with ⟨k, hk, rfl⟩ | ⟨hnone, hlaunch⟩
  · have heq := hexec'.symm.trans (exec_rejects hidle' (hrej ▸ hk))
    cases heq
    exact ⟨[], by simp, by simp, hidle.trans hidle'.symm, hans, fun _ => rfl⟩
  · have hlaunch' := exec_launches (hrej ▸ hnone) hexec'
    have hop : (s.opOf i).IsTransport := opOf_isTransport hprobe hremove
    have hstart := lockstep_accepted (i := i) hcfg hmem hans (hfree.trans hfree'.symm)
    rw [launch, ← expand_latched_agree hprobe hremove hcfg, ← opOf_agree (s := s) (s' := s') hremove] at hlaunch'
    have hend := hstart.runActs hop (expand_readsSource hop) hlaunch hlaunch'
    obtain ⟨ext, hout, hout'⟩ := hend.log
    exact ⟨ext, hout, hout', hend.seq, hend.answers, hend.status⟩

end Sys2Proof.Machine
